-- ==== Sys2Proof/Word.lean ====
section
/-! DEFINITION. The word types of ES1-MAF4: the widths that spec/00_scope.md R8 and spec/10_state.md give. -/

namespace Sys2Proof

/-- A command word, a read-port word, `FCMD` (R8, R80). -/
abbrev Word := BitVec 32

/-- A data byte or the identity byte of a command (R80, R82). -/
abbrev Byte := BitVec 8

/-- A stored sample, mean or reference: 16 bits, two's complement (R8). -/
abbrev Sample := BitVec 16

/-- A calibration sum: 18 bits, two's complement (R8, R25). -/
abbrev AccWord := BitVec 18

/-- One intensity level, 0 to 3 (R27). -/
abbrev Level := BitVec 2

/-- A read-port address: 5 bits, a word index (R38, R39). -/
abbrev ReadAddr := BitVec 5

end Sys2Proof
end

