-- ==== Sys2Proof/Config.lean ====
section
/-! DEFINITION. The constants of spec/00_scope.md R6 and R7, the open parameters of R7 and the free word of
spec/10_state.md R42. An open parameter is an opaque constant with no body: a claim holds for every value of it. -/

namespace Sys2Proof.Config

/-- Width of the two's-complement sample field (R6). -/
def sampleBits : Nat := 14
/-- Smallest AxisSample (R6). -/
def sampleMin : Int := -8192
/-- Largest AxisSample (R6). -/
def sampleMax : Int := 8191
/-- Full-scale span used by the level thresholds, `M` (R6). -/
def fullScale : Nat := 16384
/-- Slots per filter window, `DEPTH` (R6). -/
def depth : Nat := 4
/-- Raw samples averaged by calibration, `CAL_N` (R6). -/
def calN : Nat := 10
/-- Deadzone half-width, `T_DEAD` (R6). -/
def tDead : Nat := 50
/-- Zone entry distance, `T_ZONE` (R6). -/
def tZone : Nat := 500
/-- Smallest distance of level 2, `L2_MIN` = `M/8` (R6). -/
def l2Min : Nat := 2048
/-- Smallest distance of level 3, `L3_MIN` (R6; the spec's decision D13). -/
def l3Min : Nat := 2731
/-- Rounds per pulse cycle, `N_ROUNDS` (R6). -/
def nRounds : Nat := 3
/-- Round budget in ticks, `T_ROUND` (R6). -/
def tRound : Nat := 400
/-- Colour phase of a pulse in ticks, `T_PULSE` (R6). -/
def tPulse : Nat := 100
/-- All-channels-on phase of a pulse in ticks, `T_NEUTRAL` (R6). -/
def tNeutral : Nat := 100
/-- On/off pulses of the calibration acknowledgement, `N_ACK` (R6). -/
def nAck : Nat := 2
/-- One phase of the acknowledgement in ticks, `T_ACK` (R7; the spec's decision D5). -/
def tAck : Nat := 200

/-- `DEVICE_ID`, the expected identity byte: OPEN (R7, D6; log entry 5). -/
opaque deviceId : Byte

/-- `T_TICK - 1`: OPEN (R7, D4; log entry 5). The 65535 values are exactly those of `T_TICK` less one. -/
opaque tTickLessOne : Fin 65535

/-- `T_TICK`, the all-off hold in ticks, any integer with `1 <= T_TICK <= 65535` (R7, D4; log entry 5). -/
def tTick : Nat := tTickLessOne.val + 1

/-- `LED_ACTIVE_LOW`, the polarity of the indicator pins: OPEN (R7, D19; log entry 5). -/
opaque ledActiveLow : Bool

/-- `CLK_HZ`, the clock frequency: OPEN, used by no rule (R7, V9; log entry 5). -/
opaque clkHz : Nat

/-- The unspecified word of the `n`-th Read of a register that holds no value: a free value, a new draw each time
(R42, V3; log entry 4). -/
opaque unspecifiedWord : Nat → Word

end Sys2Proof.Config
end

