-- ==== Sys2Proof/Syntax.lean ====
section
/-! DEFINITION. The eight commands of spec/30_encoding.md R83 as syntax, one constructor per row of
spec/opcode_table.json, and their axis operands. -/

namespace Sys2Proof

/-- An axis operand as the assembler writes it (R11, R82, R87). -/
inductive Axis where
  | X
  | Y
  | Z
deriving DecidableEq, Repr

/-- A filtered axis: the two axes that have a window, a reference and levels (R11, R22). -/
inductive FAxis where
  | X
  | Y
deriving DecidableEq, Repr

/-- The filtered axis as an axis. -/
def FAxis.toAxis : FAxis → Axis
  | .X => .X
  | .Y => .Y

/-- The commands (R83). `push` and `cls` take any axis, as the assembler writes it (R87): `PUSH Z` and `CLS Z` are
illegal words (R84) and are refused by `Instr.wellFormed`. -/
inductive Instr where
  | nop
  | init (id : Byte)
  | ldb (a : Axis) (hi lo : Byte)
  | cal
  | push (a : Axis)
  | adv
  | cls (a : Axis)
  | start
deriving DecidableEq, Repr

end Sys2Proof
end

