-- ==== Sys2Proof/WellFormed.lean ====
section
/-! DEFINITION. Which commands the encoding admits (spec/30_encoding.md R81, R84). -/

namespace Sys2Proof

/-- The axis has a window and levels (R22, R81 format A). -/
def Axis.isFiltered : Axis → Bool
  | .X => true
  | .Y => true
  | .Z => false

/-- The command has a legal encoding: `PUSH` and `CLS` name axis X or Y; every operand of the others is legal
(R81, R84). -/
def Instr.wellFormed : Instr → Bool
  | .nop => true
  | .init _ => true
  | .ldb _ _ _ => true
  | .cal => true
  | .push a => a.isFiltered
  | .adv => true
  | .cls a => a.isFiltered
  | .start => true

end Sys2Proof
end

