-- ==== Sys2Proof/Decode.lean ====
section
/-! DEFINITION. Decoding a command word and encoding a command (spec/30_encoding.md R80 to R86), the opcode map
as rows of match and mask (R83), and the host's entry `decodeTableWord`. -/

namespace Sys2Proof

/-- Why a word is illegal (R84); the block treats all of them alike (R85). -/
inductive Reject where
  | mbzNotZero
  | reservedOpcode
  | axNotZero
  | axOutOfRange
  | hiNotZero
  | loNotZero
deriving DecidableEq, Repr

/-! ### Fields (R80) -/

/-- `OPC = w[31:28]` (R80). -/
def fieldOpc (w : Word) : BitVec 4 := w.extractLsb' 28 4
/-- `AX = w[27:26]` (R80). -/
def fieldAx (w : Word) : BitVec 2 := w.extractLsb' 26 2
/-- `MBZ = w[25:16]` (R80). -/
def fieldMbz (w : Word) : BitVec 10 := w.extractLsb' 16 10
/-- `HI = w[15:8]` (R80). -/
def fieldHi (w : Word) : Byte := w.extractLsb' 8 8
/-- `LO = w[7:0]` (R80). -/
def fieldLo (w : Word) : Byte := w.extractLsb' 0 8

/-- The word with these fields and `MBZ = 0` (R80). -/
def wordOf (opc : BitVec 4) (ax : BitVec 2) (hi lo : Byte) : Word :=
  opc ++ ax ++ 0#10 ++ hi ++ lo

/-- The `AX` field of an axis (R80, R82). -/
def axField : Axis → BitVec 2
  | .X => 0
  | .Y => 1
  | .Z => 2

/-- The axis an `AX` field names; 3 is reserved (R80). -/
def axisOfField (ax : BitVec 2) : Option Axis :=
  if ax = 0 then some .X else if ax = 1 then some .Y else if ax = 2 then some .Z else none

/-! ### Decode (R85), a format at a time (R81) -/

/-- Format N: `AX`, `HI`, `LO` must be zero (R81). -/
def formatN (i : Instr) (w : Word) : Except Reject Instr :=
  if fieldAx w ≠ 0 then .error .axNotZero
  else if fieldHi w ≠ 0 then .error .hiNotZero
  else if fieldLo w ≠ 0 then .error .loNotZero
  else .ok i

/-- Format A: `AX` is 0 or 1, `HI` and `LO` must be zero (R81). -/
def formatA (f : Axis → Instr) (w : Word) : Except Reject Instr :=
  if fieldHi w ≠ 0 then .error .hiNotZero
  else if fieldLo w ≠ 0 then .error .loNotZero
  else if fieldAx w = 0 then .ok (f .X)
  else if fieldAx w = 1 then .ok (f .Y)
  else .error .axOutOfRange

/-- Format B: `AX` is 0, 1 or 2 (R81). -/
def formatB (f : Axis → Byte → Byte → Instr) (w : Word) : Except Reject Instr :=
  match axisOfField (fieldAx w) with
  | some a => .ok (f a (fieldHi w) (fieldLo w))
  | none => .error .axOutOfRange

/-- Format I: `AX` and `HI` must be zero (R81). -/
def formatI (f : Byte → Instr) (w : Word) : Except Reject Instr :=
  if fieldAx w ≠ 0 then .error .axNotZero
  else if fieldHi w ≠ 0 then .error .hiNotZero
  else .ok (f (fieldLo w))

/-- The decoder: total on every word and independent of any state (R85). -/
def decode (w : Word) : Except Reject Instr :=
  if fieldMbz w ≠ 0 then .error .mbzNotZero
  else match (fieldOpc w).toNat with
    | 0 => formatN .nop w
    | 1 => formatI .init w
    | 2 => formatB .ldb w
    | 3 => formatN .cal w
    | 4 => formatA .push w
    | 5 => formatN .adv w
    | 6 => formatA .cls w
    | 7 => formatN .start w
    | _ => .error .reservedOpcode

/-! ### Encode (R81, R82, R87) -/

/-- The word of a command. Of `push .Z` and `cls .Z`, which are not well formed, it is the illegal word with `AX = 2`
that the assembler's text stands for (R84, R87). -/
def encode : Instr → Word
  | .nop => wordOf 0 0 0 0
  | .init id => wordOf 1 0 0 id
  | .ldb a hi lo => wordOf 2 (axField a) hi lo
  | .cal => wordOf 3 0 0 0
  | .push a => wordOf 4 (axField a) 0 0
  | .adv => wordOf 5 0 0 0
  | .cls a => wordOf 6 (axField a) 0 0
  | .start => wordOf 7 0 0 0

/-! ### The opcode map as rows (R83) -/

/-- One row of the opcode map: `w` is that command iff `w &&& mask = pat`, and `AX ≠ 3` where the row says so. -/
structure OpcodeRow where
  mnemonic : String
  pat : Word
  mask : Word
  axNot3 : Bool
deriving DecidableEq, Repr

/-- The map of R83, in its order. -/
def opcodeRows : List OpcodeRow :=
  [ ⟨"NOP", 0x00000000, 0xFFFFFFFF, false⟩,
    ⟨"INIT", 0x10000000, 0xFFFFFF00, false⟩,
    ⟨"LDB", 0x20000000, 0xF3FF0000, true⟩,
    ⟨"CAL", 0x30000000, 0xFFFFFFFF, false⟩,
    ⟨"PUSH", 0x40000000, 0xFBFFFFFF, false⟩,
    ⟨"ADV", 0x50000000, 0xFFFFFFFF, false⟩,
    ⟨"CLS", 0x60000000, 0xFBFFFFFF, false⟩,
    ⟨"START", 0x70000000, 0xFFFFFFFF, false⟩ ]

/-- The word is of this row (R83). -/
def OpcodeRow.admits (r : OpcodeRow) (w : Word) : Bool :=
  w &&& r.mask == r.pat && (!r.axNot3 || fieldAx w != 3)

/-- The mnemonic of a command (R83). -/
def mnemonicOf : Instr → String
  | .nop => "NOP"
  | .init _ => "INIT"
  | .ldb _ _ _ => "LDB"
  | .cal => "CAL"
  | .push _ => "PUSH"
  | .adv => "ADV"
  | .cls _ => "CLS"
  | .start => "START"

/-! ### The host's entry -/

/-- The word of `nbits` bits of `w`, zero above. The command port takes one whole 32-bit word, which has no byte order
(R63, R80). -/
def tableWord (nbits w : Nat) : Word := BitVec.ofNat 32 (w % 2 ^ nbits)

/-- What the decoder reads from the table's bits `w`. -/
def decodeTableWord (nbits w : Nat) : Option Instr :=
  match decode (tableWord nbits w) with
  | .ok i => some i
  | .error _ => none

end Sys2Proof
end

