-- ==== Sys2Proof/Machine/State.lean ====
section
/-! DEFINITION. The state of ES1-MAF4: everything spec/10_state.md R20 lists, as plain data, the model's own
environment beside it, and the state right after `Reset` (R44, R240, R241). -/

namespace Sys2Proof.Machine

/-- What can stop a step with a fault: nothing. Every fault of the block is an entry the spec describes
(60_exceptions.md R214), so it is a next state, with the code in the register `FAULT` (log entry 6). Nobody raises
one: safe. -/
inductive Fault where
deriving DecidableEq, Repr

/-- What a step refuses. -/
inductive Refusal where
  /-- An instruction without a meaning, raised by `exec` in its arm: safe, it only makes claims unprovable. No arm
  raises it now: every command has its meaning. -/
  | notModelled (mnemonic : String)
deriving DecidableEq, Repr

/-- `PHASE` (R32). The codes 4, 5, 6 never occur and are not represented (V7; log entry 14). -/
inductive Phase where
  /-- 0, `PH_RESET`: nothing done yet. -/
  | reset
  /-- 1, `PH_READY`: identity check passed. -/
  | ready
  /-- 2, `PH_CALIBRATED`: `REF` written, engine not started. -/
  | calibrated
  /-- 3, `PH_RUNNING`: classification and pulse engine running. -/
  | running
  /-- 7, `PH_HALTED`: a fault was raised. -/
  | halted
deriving DecidableEq, Repr

/-- `FAULT` (R33, R210). The codes 5 to 15 never occur and are not represented (V7; log entry 14). -/
inductive FaultCode where
  /-- 0: no fault. -/
  | none
  /-- 1, `IDENTITY_MISMATCH`: raised by `INIT` (R211). -/
  | identityMismatch
  /-- 2, `ILLEGAL_COMMAND`: raised by a word that decodes to Illegal (R212). -/
  | illegalCommand
  /-- 3, `SEQUENCE_ERROR`: raised by a legal command in the wrong phase (R213). -/
  | sequenceError
  /-- 4, `NO_VALUE`: raised by `CAL`, `PUSH`, `CLS` (R213). -/
  | noValue
deriving DecidableEq, Repr

/-- `STG`, the pulse engine's stage (R35). The codes 11 to 14 never occur and are not represented (V7; log entry 14). -/
inductive Stage where
  /-- 0, `OFF`: engine not started. -/
  | off
  /-- 1, `ACK_ON1`. -/
  | ackOn1
  /-- 2, `ACK_OFF1`. -/
  | ackOff1
  /-- 3, `ACK_ON2`. -/
  | ackOn2
  /-- 4, `ACK_OFF2`. -/
  | ackOff2
  /-- 5, `XP`: X pulse, colour phase. -/
  | xp
  /-- 6, `XN`: X pulse, neutral phase. -/
  | xn
  /-- 7, `YP`: Y pulse, colour phase. -/
  | yp
  /-- 8, `YN`: Y pulse, neutral phase. -/
  | yn
  /-- 9, `RI`: idle remainder of a round. -/
  | ri
  /-- 10, `ZT`: all-off hold of an all-zero cycle. -/
  | zt
  /-- 15, `HALT`: a fault was raised. -/
  | halt
deriving DecidableEq, Repr

/-- An indicator value: logical channel states, true = on (R13). -/
structure Rgb where
  r : Bool
  g : Bool
  b : Bool
deriving DecidableEq, Repr

/-- `OFF3` (R13). -/
def Rgb.off3 : Rgb := ⟨false, false, false⟩
/-- `ON3` (R13). -/
def Rgb.on3 : Rgb := ⟨true, true, true⟩

/-- One thing per axis X, Y, Z. -/
structure Xyz (α : Type) where
  x : α
  y : α
  z : α
deriving DecidableEq, Repr

/-- One thing per filtered axis X, Y. -/
structure Xy (α : Type) where
  x : α
  y : α
deriving DecidableEq, Repr

/-- A filter window: four slots, each `none` or a sample (R22, R28). -/
structure Window where
  slot0 : Option Sample
  slot1 : Option Sample
  slot2 : Option Sample
  slot3 : Option Sample
deriving DecidableEq, Repr

/-- The window no slot of which holds a value. -/
def Window.empty : Window := ⟨none, none, none, none⟩

/-- Four intensity levels: the shared tilt state `LVL` = (`POS[X]`, `NEG[X]`, `POS[Y]`, `NEG[Y]`) (R27), and its
snapshot `SNAP` = (px, nx, py, ny) (R34). -/
structure Levels where
  px : Level
  nx : Level
  py : Level
  ny : Level
deriving DecidableEq, Repr

/-- All four levels 0. -/
def Levels.zero : Levels := ⟨0, 0, 0, 0⟩

/-- The events (R12). -/
inductive Event where
  /-- `Reset` (R240). -/
  | reset
  /-- `Cmd(w)` (R100). -/
  | cmd (w : Word)
  /-- `Tick` (R176). -/
  | tick
  /-- `Read(addr)` (R39). -/
  | read (addr : ReadAddr)
deriving DecidableEq, Repr

/-- The model's own environment, no state of the block (R43). -/
structure Env where
  /-- What the environment has still to deliver, in its order: the choice of the next event (R12; log entry 1). -/
  pending : List Event
  /-- The word the observer's last `Read` returned, `none` before any (log entry 4). -/
  rdData : Option Word
  /-- How many unspecified words have been drawn (R42; log entry 4). -/
  draws : Nat
deriving DecidableEq, Repr

/-- The complete state of the block (R20) and the model's environment. -/
structure State where
  /-- `RAW[a]`: the most recent sample of each axis (R21). -/
  raw : Xyz (Option Sample)
  /-- `WIN[a]`: the filter windows (R22). -/
  win : Xy Window
  /-- `WIDX`: the write index both windows share (R23). -/
  widx : BitVec 2
  /-- `FILT[a]`: the smoothed readings (R24). -/
  filt : Xy (Option Sample)
  /-- `ACC[a]`: the calibration sums (R25). -/
  acc : Xy AccWord
  /-- `CALN`: the samples summed so far (R25). -/
  caln : BitVec 4
  /-- `REF[a]`: the calibration reference (R26). -/
  ref : Xy (Option Sample)
  /-- `LVL`: the four shared levels (R27). -/
  lvl : Levels
  /-- `PHASE` (R32). -/
  phase : Phase
  /-- `FAULT` (R33). -/
  fault : FaultCode
  /-- `FCMD` (R33). -/
  fcmd : Word
  /-- `SNAP` (R34). -/
  snap : Levels
  /-- `STG` (R35). -/
  stg : Stage
  /-- `K`: the current round (R36). -/
  k : BitVec 2
  /-- `TMR`: ticks still to pass in this stage (R36). -/
  tmr : BitVec 16
  /-- `LED`: the logical indicator value (R37). -/
  led : Rgb
  /-- The model's own environment. -/
  env : Env
deriving DecidableEq, Repr

/-- The environment at reset: nothing pending, nothing read (DESIGN CHOICE; log entries 1, 4). -/
def Env.start : Env := ⟨[], none, 0⟩

/-- The state right after `Reset`: the table of R44 (also R240, R241). -/
def State.reset : State where
  raw := ⟨none, none, none⟩
  win := ⟨.empty, .empty⟩
  widx := 0
  filt := ⟨none, none⟩
  acc := ⟨0, 0⟩
  caln := 0
  ref := ⟨none, none⟩
  lvl := .zero
  phase := .reset
  fault := .none
  fcmd := 0
  snap := .zero
  stg := .off
  k := 0
  tmr := 0
  led := .off3
  env := .start

end Sys2Proof.Machine
end

