-- ==== Sys2Proof/Machine/Operands.lean ====
section
/-! DEFINITION. Operand assembly and the arithmetic of the rules: reconstruction of a sample (R82, R103) and its
inverse (R88), the truncating means (R10, R123, R140), the level function and the classification policy (R151, R152).
Everything is computed on exact integers; registers narrow at the write (R8, R10). -/

namespace Sys2Proof.Machine

/-- The filtered axis an axis operand names, if it names one (R82, R84). -/
def filteredAxis : Axis → Option FAxis
  | .X => some .X
  | .Y => some .Y
  | .Z => none

/-- The 14-bit field `(hi << 6) | (lo >> 2)` (R103, R62). -/
def sampleField (hi lo : Byte) : Nat := (hi.toNat <<< 6) ||| (lo.toNat >>> 2)

/-- `unpack14(hi, lo)` (R103). -/
def unpack14 (hi lo : Byte) : Int :=
  if sampleField hi lo > 8191 then (sampleField hi lo : Int) - 16384 else (sampleField hi lo : Int)

/-- The unsigned 14-bit image `u` of a sample `v` (R88). -/
def sampleImage (v : Int) : Nat := if v ≥ 0 then v.toNat else (v + 16384).toNat

/-- `pack_hi(v)` (R88). -/
def packHi (v : Int) : Byte := BitVec.ofNat 8 (sampleImage v >>> 6)

/-- `pack_lo(v)` (R88). -/
def packLo (v : Int) : Byte := BitVec.ofNat 8 ((sampleImage v &&& 63) <<< 2)

/-- `tdiv(a, b)`: the quotient truncated toward zero (R10). -/
def tdiv (a b : Int) : Int := Int.tdiv a b

/-- `mean4` of four values: summed exactly, divided once (R123). -/
def mean4 (a b c d : Int) : Int := tdiv (a + b + c + d) Config.depth

/-- `mean4(W)`, when all four slots hold values; else the mean has no value (R121, R123, U2). -/
def Window.mean (w : Window) : Option Sample :=
  match w.slot0, w.slot1, w.slot2, w.slot3 with
  | some a, some b, some c, some d => some (BitVec.ofInt 16 (mean4 a.toInt b.toInt c.toInt d.toInt))
  | _, _, _, _ => none

/-- The reference of a calibration sum, `tdiv(sum, 10)` (R140). -/
def meanOfSum (sum : Int) : Sample := BitVec.ofInt 16 (tdiv sum Config.calN)

/-- `blinkLevel(value, reference)` (R151). -/
def blinkLevel (value reference : Int) : Level :=
  if (value - reference).natAbs < Config.l2Min then 1
  else if (value - reference).natAbs < Config.l3Min then 2
  else 3

/-- `classify(cur, ref, pos, neg)`: the pair after, `(pos', neg')` (R152). -/
def classify (cur ref : Int) (pos neg : Level) : Level × Level :=
  if (cur - ref).natAbs < Config.tDead then (0, 0)
  else if cur - ref ≤ -(Config.tZone : Int) then (pos, blinkLevel cur ref)
  else if cur - ref ≥ (Config.tZone : Int) then (blinkLevel cur ref, neg)
  else (pos, neg)

end Sys2Proof.Machine
end

