-- ==== Sys2Proof/Machine/Flags.lean ====
section
/-! DEFINITION. The flag-like state (spec/10_state.md R30): valid bits (R28), the phase legality table
(spec/40_driver_input.md R100), the stages that hold the command port (R38, R177), and the codes of the named values
(R32, R35, R210). -/

namespace Sys2Proof.Machine

/-- `has(REG)`: the valid bit of a register that may hold no value (R11, R28). -/
def has {α : Type} (r : Option α) : Bool := r.isSome

/-- `legal(c, PHASE)`: the table of R100. In `PH_HALTED` no command is run (R217). -/
def legal (i : Instr) (p : Phase) : Bool :=
  match i, p with
  | _, .halted => false
  | .nop, _ => true
  | .init _, p => p == .reset
  | .ldb _ _ _, p => p != .reset
  | .cal, p => p == .ready
  | .push _, p => p == .calibrated || p == .running
  | .adv, p => p == .calibrated || p == .running
  | .cls _, p => p == .running
  | .start, p => p == .calibrated

/-- The four acknowledgement stages (R35, R177). -/
def Stage.isAck : Stage → Bool
  | .ackOn1 | .ackOff1 | .ackOn2 | .ackOff2 => true
  | _ => false

/-- The stages of a running engine (R35, R45 (f)). -/
def Stage.isRunning : Stage → Bool
  | .xp | .xn | .yp | .yn | .ri | .zt => true
  | _ => false

/-- The stages of a round (R36). -/
def Stage.inRound : Stage → Bool
  | .xp | .xn | .yp | .yn | .ri => true
  | _ => false

/-- The stages that end by themselves (R36). -/
def Stage.isTimed (g : Stage) : Bool := g.isAck || g.isRunning

/-- `PHASE` as its 3 bits (R32). -/
def Phase.code : Phase → BitVec 3
  | .reset => 0
  | .ready => 1
  | .calibrated => 2
  | .running => 3
  | .halted => 7

/-- `STG` as its 4 bits (R35). -/
def Stage.code : Stage → BitVec 4
  | .off => 0
  | .ackOn1 => 1
  | .ackOff1 => 2
  | .ackOn2 => 3
  | .ackOff2 => 4
  | .xp => 5
  | .xn => 6
  | .yp => 7
  | .yn => 8
  | .ri => 9
  | .zt => 10
  | .halt => 15

/-- `FAULT` as its 4 bits (R210). -/
def FaultCode.code : FaultCode → BitVec 4
  | .none => 0
  | .identityMismatch => 1
  | .illegalCommand => 2
  | .sequenceError => 3
  | .noValue => 4

/-- An indicator value as the 3 bits `{r, g, b}` (R13). -/
def Rgb.code (c : Rgb) : BitVec 3 := BitVec.ofBool c.r ++ BitVec.ofBool c.g ++ BitVec.ofBool c.b

end Sys2Proof.Machine
end

