-- ==== Sys2Proof/Machine/Ops.lean ====
section
/-! DEFINITION. The named operations over the registers: axis-indexed access (R11), the window store (R22, R60),
fault entry (R214), the discarding of commands in `PH_HALTED` and the checks every command shares (R100), and
`Reset` (R240). There is no memory of cells (R60). There is no return from a fault: only `Reset` leaves it (R216). -/

namespace Sys2Proof.Machine

/-! ### Axis-indexed registers (R11) -/

/-- The component of axis `a`. -/
def Xyz.get {α : Type} (v : Xyz α) : Axis → α
  | .X => v.x
  | .Y => v.y
  | .Z => v.z

/-- `v` with the component of axis `a` written. -/
def Xyz.set {α : Type} (v : Xyz α) (a : Axis) (e : α) : Xyz α :=
  match a with
  | .X => { v with x := e }
  | .Y => { v with y := e }
  | .Z => { v with z := e }

/-- The component of the filtered axis `a`. -/
def Xy.get {α : Type} (v : Xy α) : FAxis → α
  | .X => v.x
  | .Y => v.y

/-- `v` with the component of the filtered axis `a` written. -/
def Xy.set {α : Type} (v : Xy α) (a : FAxis) (e : α) : Xy α :=
  match a with
  | .X => { v with x := e }
  | .Y => { v with y := e }

/-- `WIN[a][i]` (R22). -/
def Window.get (w : Window) (i : BitVec 2) : Option Sample :=
  if i = 0 then w.slot0 else if i = 1 then w.slot1 else if i = 2 then w.slot2 else w.slot3

/-- The window with slot `i` written (R22, R121). -/
def Window.set (w : Window) (i : BitVec 2) (e : Option Sample) : Window :=
  if i = 0 then { w with slot0 := e }
  else if i = 1 then { w with slot1 := e }
  else if i = 2 then { w with slot2 := e }
  else { w with slot3 := e }

/-- `POS[a]` (R27). -/
def Levels.pos (l : Levels) : FAxis → Level
  | .X => l.px
  | .Y => l.py

/-- `NEG[a]` (R27). -/
def Levels.neg (l : Levels) : FAxis → Level
  | .X => l.nx
  | .Y => l.ny

/-- Both levels of one axis written at once (R153). -/
def Levels.setPair (l : Levels) (a : FAxis) (p : Level × Level) : Levels :=
  match a with
  | .X => { l with px := p.1, nx := p.2 }
  | .Y => { l with py := p.1, ny := p.2 }

/-! ### Fault entry (R214) -/

/-- `raise F(w)`: the state before the command with the fault recorded, the block halted and the engine stopped with
the indicator off (R214, R181). -/
def raise (c : FaultCode) (w : Word) (s : State) : State :=
  { s with fault := c, fcmd := w, phase := .halted, stg := .halt, k := 0, tmr := 0, led := .off3 }

/-! ### The checks every command shares (R100) -/

/-- A word that decodes to Illegal: discarded in `PH_HALTED`, else `ILLEGAL_COMMAND` (R100 steps 1 and 2, R212). -/
def illegal (w : Word) (s : State) : State :=
  if s.phase = .halted then s else raise .illegalCommand w s

/-- A command under the checks of R100, in their order: discarded in `PH_HALTED`; `ILLEGAL_COMMAND`; `SEQUENCE_ERROR`;
its own rule. `FCMD` takes `encode i`, which is the command's word (log entry 7). -/
def issue (i : Instr) (rule : State → State) (s : State) : State :=
  if s.phase = .halted then s
  else if i.wellFormed = false then raise .illegalCommand (encode i) s
  else if legal i s.phase = false then raise .sequenceError (encode i) s
  else rule s

/-- The rule of a command on a filtered axis. An axis without a window never gets here through `issue`; it is
`ILLEGAL_COMMAND` there and here (R84). -/
def onFiltered (i : Instr) (a : Axis) (rule : FAxis → State → State) (s : State) : State :=
  match filteredAxis a with
  | some f => rule f s
  | none => raise .illegalCommand (encode i) s

/-! ### Reset (R240) -/

/-- The event `Reset`: every state element at its value of R44, whatever the state before; the environment is outside
the block and goes on. -/
def resetEvent (s : State) : State := { State.reset with env := s.env }

end Sys2Proof.Machine
end

