-- ==== Sys2Proof/Machine/PulseEngine.lean ====
section
/-! DEFINITION. The pulse engine (spec/44_pulse_engine.md): the functions of a snapshot (R171), beginning a cycle
(R172), finding the next stage (R173), the acknowledgement (R175), `Tick` (R176), `START` (R174) and the segment form
of a cycle (R178). -/

namespace Sys2Proof.Machine

/-! ### Functions of the snapshot (R171) -/

/-- `xact(S, k)`: X emits a pulse in round `k`. -/
def xact (l : Levels) (k : Nat) : Bool := decide (l.px.toNat + l.nx.toNat ≥ k)

/-- `yact(S, k)`: Y emits a pulse in round `k`. -/
def yact (l : Levels) (k : Nat) : Bool := decide (l.py.toNat + l.ny.toNat ≥ k)

/-- `xcol(S)`: red off, green iff negative, blue on (the spec's decision D14 where both levels are nonzero). -/
def xcol (l : Levels) : Rgb := ⟨false, l.nx != 0, true⟩

/-- `ycol(S)`: red on, green iff negative, blue off. -/
def ycol (l : Levels) : Rgb := ⟨true, l.ny != 0, false⟩

/-- `round_idle(S, k)`: what the pulses leave of the round's budget. -/
def roundIdle (l : Levels) (k : Nat) : Nat :=
  Config.tRound - (Config.tPulse + Config.tNeutral) * (xact l k).toNat
    - (Config.tPulse + Config.tNeutral) * (yact l k).toNat

/-- `allzero(S)`. -/
def allZero (l : Levels) : Bool := l.px == 0 && l.nx == 0 && l.py == 0 && l.ny == 0

/-! ### Entering a stage -/

/-- Stage `g` of round `k` for `t` ticks; `LED` not written. -/
def enter (g : Stage) (k t : Nat) (s : State) : State :=
  { s with stg := g, k := BitVec.ofNat 2 k, tmr := BitVec.ofNat 16 t }

/-- Stage `g` of round `k` for `t` ticks, showing `c`. -/
def enterLed (g : Stage) (k t : Nat) (c : Rgb) (s : State) : State :=
  { enter g k t s with led := c }

/-- Stage `g` for `t` ticks, showing `c`; `K` not written. -/
def enterSame (g : Stage) (t : Nat) (c : Rgb) (s : State) : State :=
  { s with stg := g, tmr := BitVec.ofNat 16 t, led := c }

/-- `pe_ack_start()` (R175). -/
def ackStart (s : State) : State := enterLed .ackOn1 0 Config.tAck .on3 s

/-- What `pe_seek(k, p)` finds within round `k`: the X pulse, the Y pulse or the idle remainder, the first that has
something to do (R173). -/
def seekRound (k p : Nat) (s : State) : Option State :=
  if p = 0 ∧ xact s.snap k = true then some (enterLed .xp k Config.tPulse (xcol s.snap) s)
  else if p ≤ 1 ∧ yact s.snap k = true then some (enterLed .yp k Config.tPulse (ycol s.snap) s)
  else if roundIdle s.snap k > 0 then some (enter .ri k (roundIdle s.snap k) s)
  else none

/-- `SNAP <- (POS[X], NEG[X], POS[Y], NEG[Y])`: one atomic copy (R172). -/
def snapshot (s : State) : State := { s with snap := s.lvl }

/-- `pe_begin_cycle()` (R172). `pe_seek(1, 0)` ends in round 1, since a search from the start of a round always finds
a stage (R173; log entry 9). -/
def beginCycle (s : State) : State :=
  if allZero s.lvl then enterLed .zt 0 Config.tTick .off3 (snapshot s)
  else (seekRound 1 0 (snapshot s)).getD (snapshot s)

/-- `pe_seek(k, p)` (R173), without its recursion: the search in the next round always ends there (log entry 9). -/
def seek (k p : Nat) (s : State) : State :=
  match seekRound k p s with
  | some t => t
  | none => if k < Config.nRounds then (seekRound (k + 1) 0 s).getD s else beginCycle s

/-! ### Tick (R176) -/

/-- The current stage ends with this tick (R176). -/
def endStage (s : State) : State :=
  match s.stg with
  | .off => s
  | .ackOn1 => enterSame .ackOff1 Config.tAck .off3 s
  | .ackOff1 => enterSame .ackOn2 Config.tAck .on3 s
  | .ackOn2 => enterSame .ackOff2 Config.tAck .off3 s
  | .ackOff2 => enterSame .off 0 .off3 s
  | .xp => enterSame .xn Config.tNeutral .on3 s
  | .xn => seek s.k.toNat 1 s
  | .yp => enterSame .yn Config.tNeutral .on3 s
  | .yn => seek s.k.toNat 2 s
  | .ri => if s.k.toNat < Config.nRounds then seek (s.k.toNat + 1) 0 s else beginCycle s
  | .zt => beginCycle s
  | .halt => s

/-- The event `Tick` (R176). -/
def tick (s : State) : State :=
  if s.stg = .off ∨ s.stg = .halt then s
  else if s.tmr.toNat > 1 then { s with tmr := s.tmr - 1 }
  else endStage s

/-- `n` consecutive ticks (R93 `TICK n`). -/
def ticks : Nat → State → State
  | 0, s => s
  | n + 1, s => ticks n (tick s)

/-! ### START (R174) -/

/-- The rule of `START`: the phase, then the first snapshot and the first stage in the same event. -/
def startRule (s : State) : State := beginCycle { s with phase := .running }

/-- `START` (R174). -/
def execStart (s : State) : Host.Outcome State Fault Refusal := .next (issue .start startRule s)

/-! ### Segment form (R178) -/

/-- `round(S, k)`: what one round drives, with how many ticks each value is driven. -/
def roundSegments (l : Levels) (k : Nat) : List (Rgb × Nat) :=
  (if xact l k then [(xcol l, Config.tPulse), (Rgb.on3, Config.tNeutral)] else [])
    ++ (if yact l k then [(ycol l, Config.tPulse), (Rgb.on3, Config.tNeutral)] else [])
    ++ (if roundIdle l k > 0 then [(Rgb.on3, roundIdle l k)] else [])

/-- `cycle(S)`: what one whole cycle drives. -/
def cycleSegments (l : Levels) : List (Rgb × Nat) :=
  if allZero l then [(Rgb.off3, Config.tTick)]
  else roundSegments l 1 ++ roundSegments l 2 ++ roundSegments l 3

/-- The ticks of a list of segments. -/
def segmentTicks : List (Rgb × Nat) → Nat
  | [] => 0
  | (_, t) :: rest => t + segmentTicks rest

/-- The value a list of segments drives after its first `n` ticks; `OFF3` past its end. -/
def segmentLed : List (Rgb × Nat) → Nat → Rgb
  | [], _ => Rgb.off3
  | (c, t) :: rest, n => if n < t then c else segmentLed rest (n - t)

end Sys2Proof.Machine
end

