-- ==== Sys2Proof/Machine/Calibrator.lean ====
section
/-! DEFINITION. The calibrator, command `CAL` (spec/42_calibrator.md R140, R141). -/

namespace Sys2Proof.Machine

/-- The tenth sample: `REF` from the exact sums, the phase, and the acknowledgement (R140, R141, R175). -/
def finishCalibration (ax ay : Int) (s : State) : State :=
  ackStart { s with ref := ⟨some (meanOfSum ax), some (meanOfSum ay)⟩, phase := .calibrated }

/-- The rule of `CAL` (R140). The sums are exact integers and narrow to `ACC`'s 18 bits at the write, which loses
nothing in a state a run reaches (R143; log entry 8). -/
def calRule (s : State) : State :=
  match s.raw.x, s.raw.y with
  | some rx, some ry =>
    let ax := s.acc.x.toInt + rx.toInt
    let ay := s.acc.y.toInt + ry.toInt
    let t := { s with
      acc := ⟨BitVec.ofInt 18 ax, BitVec.ofInt 18 ay⟩
      caln := BitVec.ofNat 4 (s.caln.toNat + 1) }
    if s.caln.toNat + 1 = Config.calN then finishCalibration ax ay t else t
  | _, _ => raise .noValue (encode .cal) s

/-- `CAL` (R140). -/
def execCal (s : State) : Host.Outcome State Fault Refusal := .next (issue .cal calRule s)

end Sys2Proof.Machine
end

