-- ==== Sys2Proof/Machine/Classifier.lean ====
section
/-! DEFINITION. The zone classifier, command `CLS` (spec/43_classifier.md R153). -/

namespace Sys2Proof.Machine

/-- The rule of `CLS a` (R153): one atomic write of the pair. `REF[a]` holds a value in every `PH_RUNNING` state a run
reaches; where it holds none the command needs a value it has not and raises `NO_VALUE` (R28; log entry 10). -/
def clsRule (a : FAxis) (s : State) : State :=
  match s.filt.get a, s.ref.get a with
  | some c, some r =>
    { s with lvl := s.lvl.setPair a (classify c.toInt r.toInt (s.lvl.pos a) (s.lvl.neg a)) }
  | _, _ => raise .noValue (encode (.cls a.toAxis)) s

/-- `CLS a` (R153). -/
def execCls (a : Axis) (s : State) : Host.Outcome State Fault Refusal :=
  .next (issue (.cls a) (onFiltered (.cls a) a clsRule) s)

end Sys2Proof.Machine
end

