-- ==== Sys2Proof/Machine/Driver.lean ====
section
/-! DEFINITION. The driver-input commands `NOP`, `INIT`, `LDB` (spec/40_driver_input.md R101, R102, R104). -/

namespace Sys2Proof.Machine

/-- The rule of `NOP`: nothing (R101). -/
def nopRule (s : State) : State := s

/-- `NOP` (R101). -/
def execNop (s : State) : Host.Outcome State Fault Refusal := .next (issue .nop nopRule s)

/-- The rule of `INIT id`: the identity check (R102, R211). -/
def initRule (id : Byte) (s : State) : State :=
  if id = Config.deviceId then { s with phase := .ready }
  else raise .identityMismatch (encode (.init id)) s

/-- `INIT id` (R102). -/
def execInit (id : Byte) (s : State) : Host.Outcome State Fault Refusal :=
  .next (issue (.init id) (initRule id) s)

/-- The rule of `LDB a, hi, lo`: `RAW[a] <- unpack14(hi, lo)` (R104). -/
def ldbRule (a : Axis) (hi lo : Byte) (s : State) : State :=
  { s with raw := s.raw.set a (some (BitVec.ofInt 16 (unpack14 hi lo))) }

/-- `LDB a, hi, lo` (R104). -/
def execLdb (a : Axis) (hi lo : Byte) (s : State) : Host.Outcome State Fault Refusal :=
  .next (issue (.ldb a hi lo) (ldbRule a hi lo) s)

end Sys2Proof.Machine
end

