-- ==== Sys2Proof/Machine/Filter.lean ====
section
/-! DEFINITION. The moving-average filter, commands `PUSH` and `ADV` (spec/41_filter.md R121, R122). -/

namespace Sys2Proof.Machine

/-- `FILT[a] <- mean4(WIN[a])` when all four slots hold values, else nothing is written (R121). -/
def refilter (a : FAxis) (s : State) : State :=
  match (s.win.get a).mean with
  | some m => { s with filt := s.filt.set a (some m) }
  | none => s

/-- The rule of `PUSH a` (R121). -/
def pushRule (a : FAxis) (s : State) : State :=
  match s.raw.get a.toAxis with
  | none => raise .noValue (encode (.push a.toAxis)) s
  | some v => refilter a { s with win := s.win.set a ((s.win.get a).set s.widx (some v)) }

/-- `PUSH a` (R121). -/
def execPush (a : Axis) (s : State) : Host.Outcome State Fault Refusal :=
  .next (issue (.push a) (onFiltered (.push a) a pushRule) s)

/-- The rule of `ADV`: `WIDX <- (WIDX + 1) mod 4` (R122). -/
def advRule (s : State) : State :=
  { s with widx := BitVec.ofNat 2 ((s.widx.toNat + 1) % Config.depth) }

/-- `ADV` (R122). -/
def execAdv (s : State) : Host.Outcome State Fault Refusal := .next (issue .adv advRule s)

end Sys2Proof.Machine
end

