-- ==== Sys2Proof/Machine/Dispatch.lean ====
section
/-! DEFINITION. One arm per command (spec/30_encoding.md R83). -/

namespace Sys2Proof.Machine

def exec (i : Instr) (s : State) : Host.Outcome State Fault Refusal :=
  match i with
  | .nop => Sys2Proof.Machine.execNop s
  | .init id => Sys2Proof.Machine.execInit id s
  | .ldb a hi lo => Sys2Proof.Machine.execLdb a hi lo s
  | .cal => Sys2Proof.Machine.execCal s
  | .push a => Sys2Proof.Machine.execPush a s
  | .adv => Sys2Proof.Machine.execAdv s
  | .cls a => Sys2Proof.Machine.execCls a s
  | .start => Sys2Proof.Machine.execStart s

end Sys2Proof.Machine
end

