-- ==== Sys2Proof/Machine/ReadPort.lean ====
section
/-! DEFINITION. The read port (spec/10_state.md R39 to R42): the register at each address, the `STATUS` layout and the
event `Read`. -/

namespace Sys2Proof.Machine

/-- `STATUS` (R40), from its most significant field down. -/
def statusWord (s : State) : Word :=
  0#7 ++ s.caln
    ++ BitVec.ofBool (has s.ref.y) ++ BitVec.ofBool (has s.ref.x)
    ++ BitVec.ofBool (has s.raw.z) ++ BitVec.ofBool (has s.raw.y) ++ BitVec.ofBool (has s.raw.x)
    ++ BitVec.ofBool (has s.filt.y) ++ BitVec.ofBool (has s.filt.x)
    ++ BitVec.ofBool (has s.win.y.slot3) ++ BitVec.ofBool (has s.win.y.slot2)
    ++ BitVec.ofBool (has s.win.y.slot1) ++ BitVec.ofBool (has s.win.y.slot0)
    ++ BitVec.ofBool (has s.win.x.slot3) ++ BitVec.ofBool (has s.win.x.slot2)
    ++ BitVec.ofBool (has s.win.x.slot1) ++ BitVec.ofBool (has s.win.x.slot0)
    ++ s.widx ++ BitVec.ofBool s.stg.isAck ++ s.phase.code

/-- `FAULTR` (R39). -/
def faultWord (s : State) : Word := 0#28 ++ s.fault.code

/-- `LVLR` and `SNAPR`: the four levels, the first lowest (R39). -/
def levelsWord (l : Levels) : Word := 0#24 ++ l.ny ++ l.py ++ l.nx ++ l.px

/-- `PER` (R39). -/
def engineWord (s : State) : Word := s.tmr ++ 0#7 ++ s.led.code ++ s.k ++ s.stg.code

/-- A data register sign-extended, `none` where it holds no value (R42). -/
def dataWord (r : Option Sample) : Option Word := r.map (fun v => v.signExtend 32)

/-- The register at a read-port address; `none` where the word is unspecified (R39, R42, V6). -/
def readReg (addr : ReadAddr) (s : State) : Option Word :=
  match addr.toNat with
  | 0x00 => some (statusWord s)
  | 0x01 => some (faultWord s)
  | 0x02 => some s.fcmd
  | 0x03 => some (levelsWord s.lvl)
  | 0x04 => some (levelsWord s.snap)
  | 0x05 => some (engineWord s)
  | 0x06 => dataWord s.raw.x
  | 0x07 => dataWord s.raw.y
  | 0x08 => dataWord s.raw.z
  | 0x09 => dataWord s.filt.x
  | 0x0A => dataWord s.filt.y
  | 0x0B => dataWord s.ref.x
  | 0x0C => dataWord s.ref.y
  | 0x0D => some (s.acc.x.signExtend 32)
  | 0x0E => some (s.acc.y.signExtend 32)
  | 0x10 => dataWord s.win.x.slot0
  | 0x11 => dataWord s.win.x.slot1
  | 0x12 => dataWord s.win.x.slot2
  | 0x13 => dataWord s.win.x.slot3
  | 0x14 => dataWord s.win.y.slot0
  | 0x15 => dataWord s.win.y.slot1
  | 0x16 => dataWord s.win.y.slot2
  | 0x17 => dataWord s.win.y.slot3
  | _ => some 0

/-- The word `rd_data` carries: the register, or a free word where it holds no value (R38, R42; log entry 4). -/
def rdData (addr : ReadAddr) (s : State) : Word :=
  (readReg addr s).getD (Config.unspecifiedWord s.env.draws)

/-- The event `Read(addr)`: the block is unchanged; the observer has the word, and a free word once drawn is not drawn
again (R39, R41, R42). -/
def readEvent (addr : ReadAddr) (s : State) : State :=
  { s with env := { s.env with
      rdData := some (rdData addr s)
      draws := if (readReg addr s).isSome then s.env.draws else s.env.draws + 1 } }

end Sys2Proof.Machine
end

