-- ==== Sys2Proof/Machine/Ports.lean ====
section
/-! DEFINITION. The ports (spec/10_state.md R37, R38): the outputs as functions of the state, and the events of one
clock cycle from its inputs. -/

namespace Sys2Proof.Machine

/-! ### Outputs -/

/-- `cmd_ready`: 0 exactly in the acknowledgement stages (R38, R177). -/
def cmdReady (s : State) : Bool := !s.stg.isAck

/-- The `fault` pin: `FAULT != 0` (R38, R219). -/
def faultPin (s : State) : Bool := s.fault != .none

/-- The indicator pins `led_r`, `led_g`, `led_b`: the logical channels xor the polarity (R37). -/
def ledPins (s : State) : Rgb :=
  ⟨s.led.r ^^ Config.ledActiveLow, s.led.g ^^ Config.ledActiveLow, s.led.b ^^ Config.ledActiveLow⟩

/-! ### One clock cycle -/

/-- The inputs sampled at one rising edge of `clk` (R38). `rdAddr` is the address when the observer samples `rd_data`
in this cycle. -/
structure Inputs where
  rst : Bool
  cmdValid : Bool
  cmd : Word
  tickMs : Bool
  rdAddr : Option ReadAddr
deriving DecidableEq, Repr

/-- The events of one clock cycle, `ready` being `cmd_ready` in it (R38). `rst` overrides every other input; a command
is taken when `cmd_valid = cmd_ready = 1`; a command and a tick are two events in either order, `cmdFirst` saying
which (R215, V1); a read is combinational, so it sees the state before the edge (log entry 15). -/
def cycleEvents (ready cmdFirst : Bool) (c : Inputs) : List Event :=
  if c.rst then [.reset]
  else
    let cmds := if c.cmdValid && ready then [Event.cmd c.cmd] else []
    let tcks := if c.tickMs then [Event.tick] else []
    let reads := match c.rdAddr with
      | some a => [Event.read a]
      | none => []
    reads ++ (if cmdFirst then cmds ++ tcks else tcks ++ cmds)

/-- The environment drives one clock cycle next: its events come before all others still pending (R38). -/
def driveCycle (cmdFirst : Bool) (c : Inputs) (s : State) : State :=
  { s with env := { s.env with pending := cycleEvents (cmdReady s) cmdFirst c ++ s.env.pending } }

/-- The host presents a command next on the command port (R38). -/
def present (w : Word) (s : State) : State :=
  { s with env := { s.env with pending := .cmd w :: s.env.pending } }

end Sys2Proof.Machine
end

