-- ==== Sys2Proof/Machine/Events.lean ====
section
/-! DEFINITION. The events (spec/00_scope.md R12): executing a command word (R100), and which pending event comes next
(R38, R68). -/

namespace Sys2Proof.Machine

/-- The event `Cmd(w)` (R100). Step 1, the discard in `PH_HALTED`, stands in `illegal` and in `issue`, which every
meaning calls. -/
def cmdEvent (w : Word) (s : State) : Host.Outcome State Fault Refusal :=
  match decode w with
  | .ok i => exec i s
  | .error _ => .next (illegal w s)

/-- One event (R12). -/
def runEvent (e : Event) (s : State) : Host.Outcome State Fault Refusal :=
  match e with
  | .reset => .next (resetEvent s)
  | .cmd w => cmdEvent w s
  | .tick => .next (tick s)
  | .read a => .next (readEvent a s)

/-- The next event that can occur, and what stays pending. While the port is not ready a command is held, in its place,
and the events of the other agents pass it (R38, R68 (a), R177; log entry 3). -/
def takeEvent (ready : Bool) : List Event → Option (Event × List Event)
  | [] => none
  | .cmd w :: rest =>
    if ready then some (.cmd w, rest)
    else (takeEvent ready rest).map fun p => (p.1, .cmd w :: p.2)
  | .reset :: rest => some (.reset, rest)
  | .tick :: rest => some (.tick, rest)
  | .read a :: rest => some (.read a, rest)

/-- The state with these events pending. -/
def withPending (evs : List Event) (s : State) : State := { s with env := { s.env with pending := evs } }

/-- The next event occurs; where none can, the block waits (R44, R218; log entry 2). -/
def nextStep (s : State) : Host.Outcome State Fault Refusal :=
  match takeEvent (cmdReady s) s.env.pending with
  | none => .next s
  | some (e, rest) => runEvent e (withPending rest s)

/-- The word of the host's table presented as the next command (log entry 12). -/
def presentTableWord (s : State) (nbits w : Nat) : State := present (tableWord nbits w) s

end Sys2Proof.Machine
end

