-- ==== Sys2Proof/Machine/Step.lean ====
section
/-! DEFINITION. One step: one event (spec/00_scope.md R12, spec/20_memory.md R67). -/

namespace Sys2Proof.Machine

/-- One step of the machine. -/
def step (s : State) : Host.Outcome State Fault Refusal := nextStep s

/-- The state in which the host presents this word next (the block has no fetch, R29; log entry 12). -/
def State.withFetchWord (s : State) (nbits w : Nat) : State := presentTableWord s nbits w

end Sys2Proof.Machine
end

