-- ==== Sys2Proof/Machine/Pseudo.lean ====
section
/-! DEFINITION. The assembler's sample literal and pseudo-instructions (spec/30_encoding.md R88 to R92): lists of
commands, and the events that present them. -/

namespace Sys2Proof.Machine

/-- `LDB a, #v`; a literal outside the sample range is refused by the assembler (R88, D34). -/
def ldbLiteral (a : Axis) (v : Int) : Option Instr :=
  if Config.sampleMin ≤ v ∧ v ≤ Config.sampleMax then some (.ldb a (packHi v) (packLo v)) else none

/-- `TRIG xh, xl, yh, yl, zh, zl` (R88). -/
def trigBytes (xh xl yh yl zh zl : Byte) : List Instr :=
  [.ldb .X xh xl, .ldb .Y yh yl, .ldb .Z zh zl]

/-- `TRIG #x, #y, #z` (R88). -/
def trig (v : Xyz Int) : Option (List Instr) :=
  match ldbLiteral .X v.x, ldbLiteral .Y v.y, ldbLiteral .Z v.z with
  | some x, some y, some z => some [x, y, z]
  | _, _, _ => none

/-- `PUSHXY`, one push cycle (R89). -/
def pushXY : List Instr := [.push .X, .push .Y, .adv]

/-- `TRIG` of each sample triple in turn, each followed by `tail`; refused if one literal is. -/
def trigEach (tail : List Instr) : List (Xyz Int) → Option (List Instr)
  | [] => some []
  | v :: rest =>
    match trig v, trigEach tail rest with
    | some t, some more => some (t ++ tail ++ more)
    | _, _ => none

/-- `CALIBRATE s1, ..., s10` (R90); it takes exactly ten triples. -/
def calibrate (samples : List (Xyz Int)) : Option (List Instr) :=
  if samples.length = Config.calN then trigEach [.cal] samples else none

/-- `PREFILL s1, s2, s3, s4` (R91); it takes exactly four triples. -/
def prefill (samples : List (Xyz Int)) : Option (List Instr) :=
  if samples.length = Config.depth then trigEach pushXY samples else none

/-- `SAMPLE s` (R92). -/
def samplePass (v : Xyz Int) : Option (List Instr) := trigEach (pushXY ++ [.cls .X, .cls .Y]) [v]

/-- The events that present a list of commands in its order (R67, R87). -/
def cmdEvents (is : List Instr) : List Event := is.map fun i => .cmd (encode i)

/-- A list of commands run one after another with no other event between (R67). -/
def execAll : List Instr → State → Host.Outcome State Fault Refusal
  | [], s => .next s
  | i :: is, s =>
    match exec i s with
    | .next t => execAll is t
    | .fault r => .fault r
    | .refused r => .refused r

end Sys2Proof.Machine
end

