-- ==== Sys2Proof/Safety.lean ====
section
/-! DEFINITION. What counts as a safe run (spec/70_reset_and_hazards.md R253, spec/60_exceptions.md R217) and the
invariant of the state (spec/10_state.md R45 and the rules it is derived from). -/

namespace Sys2Proof.Machine

/-- The run has gone wrong iff `FAULT != 0` in its last state (R217, R253). -/
def goneWrong (s : State) : Prop := s.fault ≠ .none

/-- A legal AxisSample (R6, R21). -/
def inSampleRange (v : Sample) : Prop := Config.sampleMin ≤ v.toInt ∧ v.toInt ≤ Config.sampleMax

/-- The indicator value of each stage (R35, R183). -/
def stageLed (g : Stage) (l : Levels) : Rgb :=
  match g with
  | .off | .ackOff1 | .ackOff2 | .zt | .halt => .off3
  | .ackOn1 | .ackOn2 | .xn | .yn | .ri => .on3
  | .xp => xcol l
  | .yp => ycol l

/-- The length of each stage in ticks, 0 for the stages that do not end (R35, R36). -/
def stageTicks (g : Stage) (l : Levels) (k : BitVec 2) : Nat :=
  match g with
  | .off | .halt => 0
  | .ackOn1 | .ackOff1 | .ackOn2 | .ackOff2 => Config.tAck
  | .xp | .yp => Config.tPulse
  | .xn | .yn => Config.tNeutral
  | .ri => roundIdle l k.toNat
  | .zt => Config.tTick

/-- The snapshot has something for the stage to show (R173, R35). -/
def stageEnabled (g : Stage) (l : Levels) (k : BitVec 2) : Bool :=
  match g with
  | .xp | .xn => xact l k.toNat
  | .yp | .yn => yact l k.toNat
  | .ri => !allZero l && decide (roundIdle l k.toNat > 0)
  | .zt => allZero l
  | _ => true

/-- `FAULT` and `FCMD` fit together: the word in `FCMD` is one that raises the fault (R210, R214). -/
def causeRecorded (c : FaultCode) (w : Word) : Prop :=
  match c with
  | .none => w = 0
  | .identityMismatch => ∃ id, id ≠ Config.deviceId ∧ decode w = .ok (.init id)
  | .illegalCommand => ∃ r, decode w = .error r
  | .sequenceError => ∃ i, decode w = .ok i ∧ i ≠ .nop
  | .noValue => decode w = .ok .cal ∨ (∃ a, decode w = .ok (.push a)) ∨ ∃ a, decode w = .ok (.cls a)

/-- The invariant of the state: R45 (a) to (h), and what the rules named with each field add to it. -/
structure Inv (s : State) : Prop where
  /-- R45 (a): samples. -/
  rawRange : ∀ a v, s.raw.get a = some v → inSampleRange v
  /-- R45 (a): window slots. -/
  winRange : ∀ a i v, (s.win.get a).get i = some v → inSampleRange v
  /-- R45 (a): smoothed readings. -/
  filtRange : ∀ a v, s.filt.get a = some v → inSampleRange v
  /-- R45 (a): references. -/
  refRange : ∀ a v, s.ref.get a = some v → inSampleRange v
  /-- R143: the sums after `CALN` samples. -/
  accRange : ∀ a, Config.sampleMin * (s.caln.toNat : Int) ≤ (s.acc.get a).toInt
    ∧ (s.acc.get a).toInt ≤ Config.sampleMax * (s.caln.toNat : Int)
  /-- R25. -/
  calnRange : s.caln.toNat ≤ Config.calN
  /-- R45 (b), with the value (R121). -/
  filtIsMean : ∀ a, s.filt.get a = (s.win.get a).mean
  /-- R45 (c), with the value (R140). -/
  refIsMean : ∀ a, s.ref.get a =
    if s.caln.toNat = Config.calN then some (meanOfSum (s.acc.get a).toInt) else none
  /-- R45 (c). -/
  countDone : s.phase = .calibrated ∨ s.phase = .running → s.caln.toNat = Config.calN
  /-- R140 (c): before the tenth `CAL` the count is at most 9. -/
  countOpen : s.phase = .reset ∨ s.phase = .ready → s.caln.toNat < Config.calN
  /-- R45 (d). -/
  rawHeld : s.phase = .calibrated ∨ s.phase = .running → has s.raw.x = true ∧ has s.raw.y = true
  /-- R45 (e). -/
  haltedFault : s.phase = .halted ↔ s.fault ≠ .none
  /-- R45 (e). -/
  haltedStage : s.phase = .halted ↔ s.stg = .halt
  /-- R45 (f). -/
  runningStage : s.phase = .running ↔ s.stg.isRunning = true
  /-- R45 (f). -/
  ackPhase : s.stg.isAck = true → s.phase = .calibrated
  /-- R45 (g). -/
  offEarly : s.phase = .reset ∨ s.phase = .ready → s.stg = .off ∧ s.led = .off3
  /-- R45 (g), R174 (b): no level and no snapshot before `START`. -/
  levelsEarly : s.phase = .reset ∨ s.phase = .ready ∨ s.phase = .calibrated → s.lvl = .zero ∧ s.snap = .zero
  /-- R36, R45 (h). -/
  timer : if s.stg.isTimed then 1 ≤ s.tmr.toNat ∧ s.tmr.toNat ≤ stageTicks s.stg s.snap s.k else s.tmr = 0
  /-- R36. -/
  round : if s.stg.inRound then 1 ≤ s.k.toNat else s.k = 0
  /-- R35, R183. -/
  ledOfStage : s.led = stageLed s.stg s.snap
  /-- R173. -/
  enabled : stageEnabled s.stg s.snap s.k = true
  /-- R33, R210. -/
  cause : causeRecorded s.fault s.fcmd
  /-- R32: in `PH_RESET` nothing is done yet. -/
  fresh : s.phase = .reset → s = { State.reset with env := s.env }

end Sys2Proof.Machine
end

