-- ==== Sys2Proof/Certificates/Slice0/Obligations.lean ====
section
/-! DEFINITION. The statements about ES1-MAF4, from the numbered rules of spec/. OBLIGATIONS.json lists them. A
statement whose rule the spec marks as derived, or that rests on a log entry, is marked 'derived' there. -/

open Sys2Proof Sys2Proof.Machine

/-! ### Encoding -/

/-- R81, R82, R83, R85: decoding the word of a well-formed command gives the command back, with every operand. -/
def Obligations.DecodeOfEncode : Prop :=
  ∀ i : Instr, i.wellFormed = true → decode (encode i) = .ok i

/-- R81, R82, R84, R85: a word that decodes is the word of what it decodes to, and that is well formed; so every bit of
a legal word is a used field or zero, and `FCMD`, which takes `encode i`, takes the word itself. -/
def Obligations.EncodeOfDecode : Prop :=
  ∀ (w : Word) (i : Instr), decode w = .ok i → i.wellFormed = true ∧ encode i = w

/-- R87: words of the assembler's table decode to what the table says. -/
def Obligations.WordsOfTheAssemblerTable : Prop :=
  decode 0x00000000 = .ok .nop ∧ decode 0x1000001A = .ok (.init 0x1A)
    ∧ decode 0x20001234 = .ok (.ldb .X 0x12 0x34) ∧ decode 0x24001234 = .ok (.ldb .Y 0x12 0x34)
    ∧ decode 0x2800FFFC = .ok (.ldb .Z 0xFF 0xFC) ∧ decode 0x30000000 = .ok .cal
    ∧ decode 0x40000000 = .ok (.push .X) ∧ decode 0x44000000 = .ok (.push .Y)
    ∧ decode 0x50000000 = .ok .adv ∧ decode 0x60000000 = .ok (.cls .X)
    ∧ decode 0x64000000 = .ok (.cls .Y) ∧ decode 0x70000000 = .ok .start

/-- R83: a word is of a row of the opcode map, by its match and mask and the row's extra condition, exactly when it
decodes to that row's command; a word that matches no row is illegal. -/
def Obligations.OpcodeMapSelectsTheCommand : Prop :=
  (∀ w, ∀ r ∈ opcodeRows, r.admits w = true ↔ ∃ i, decode w = .ok i ∧ mnemonicOf i = r.mnemonic)
    ∧ (∀ w, (∀ r ∈ opcodeRows, r.admits w = false) → ∃ e, decode w = .error e)
    ∧ opcodeRows.Pairwise (fun a b => ∀ w, ¬(a.admits w = true ∧ b.admits w = true))

/-- R84: which words are illegal, field by field and by the opcode map; executing one raises `ILLEGAL_COMMAND` in every
phase but `PH_HALTED`, where it is discarded. -/
def Obligations.IllegalWordsAreExactlyTheReservedOnes : Prop :=
  (∀ w : Word, (∃ e, decode w = .error e) ↔
      (8 ≤ (fieldOpc w).toNat ∨ fieldMbz w ≠ 0
        ∨ (fieldOpc w ∈ [0, 1, 3, 5, 7] ∧ fieldAx w ≠ 0)
        ∨ (fieldOpc w ∈ [4, 6] ∧ (fieldAx w = 2 ∨ fieldAx w = 3))
        ∨ (fieldOpc w = 2 ∧ fieldAx w = 3)
        ∨ (fieldOpc w ∈ [0, 1, 3, 4, 5, 6, 7] ∧ fieldHi w ≠ 0)
        ∨ (fieldOpc w ∈ [0, 3, 4, 5, 6, 7] ∧ fieldLo w ≠ 0)))
    ∧ (∀ w : Word, (∃ e, decode w = .error e) ↔ ∀ r ∈ opcodeRows, r.admits w = false)
    ∧ (∀ (w : Word) (s : State), (∃ e, decode w = .error e) →
        (s.phase ≠ .halted → cmdEvent w s = .next (raise .illegalCommand w s))
          ∧ (s.phase = .halted → cmdEvent w s = .next s))

/-! ### Arithmetic -/

/-- R103: the reconstruction of a sample: the formula, the two's-complement reading of the 14 bits, the range, the
ignored bits, and `|` as `+`. -/
def Obligations.SampleReconstruction : Prop :=
  (∀ hi lo : Byte, ((hi.toNat <<< 6) ||| (lo.toNat >>> 2)) ≤ 16383
      ∧ ((hi.toNat <<< 6) ||| (lo.toNat >>> 2)) = (hi.toNat <<< 6) + (lo.toNat >>> 2)
      ∧ unpack14 hi lo
        = (if ((hi.toNat <<< 6) ||| (lo.toNat >>> 2)) > 8191
            then (((hi.toNat <<< 6) ||| (lo.toNat >>> 2) : Nat) : Int) - 16384
            else (((hi.toNat <<< 6) ||| (lo.toNat >>> 2) : Nat) : Int))
      ∧ unpack14 hi lo = (hi ++ lo.extractLsb' 2 6 : BitVec 14).toInt
      ∧ -8192 ≤ unpack14 hi lo ∧ unpack14 hi lo ≤ 8191)
    ∧ (∀ hi lo lo' : Byte, lo.extractLsb' 2 6 = lo'.extractLsb' 2 6 → unpack14 hi lo = unpack14 hi lo')
    ∧ unpack14 0x00 0x00 = 0 ∧ unpack14 0x00 0x04 = 1 ∧ unpack14 0x00 0x03 = 0 ∧ unpack14 0x7F 0xFC = 8191
    ∧ unpack14 0x7F 0xFF = 8191 ∧ unpack14 0x80 0x00 = -8192 ∧ unpack14 0xFF 0xFC = -1
    ∧ unpack14 0x12 0x34 = 1165

/-- R88 (derived from R103): packing a sample and reconstructing it gives it back, for every sample; the assembler
refuses every other literal. -/
def Obligations.PackThenUnpack : Prop :=
  (∀ v : Int, -8192 ≤ v → v ≤ 8191 →
      unpack14 (packHi v) (packLo v) = v ∧ ∀ a, ldbLiteral a v = some (.ldb a (packHi v) (packLo v)))
    ∧ ∀ (a : Axis) (v : Int), v < -8192 ∨ 8191 < v → ldbLiteral a v = none

/-- R123: the mean of a full window is its exact sum divided once by 4 and truncated toward zero, whatever the order of
the slots; it is not an arithmetic right shift. -/
def Obligations.MeanTruncatesTowardZero : Prop :=
  (∀ a b c d : Int, mean4 a b c d
      = if 0 ≤ a + b + c + d then (a + b + c + d) / 4 else -(-(a + b + c + d) / 4))
    ∧ (∀ a b c d : Sample, Window.mean ⟨some a, some b, some c, some d⟩
        = some (BitVec.ofInt 16 (mean4 a.toInt b.toInt c.toInt d.toInt))
      ∧ (BitVec.ofInt 16 (mean4 a.toInt b.toInt c.toInt d.toInt)).toInt = mean4 a.toInt b.toInt c.toInt d.toInt)
    ∧ (∀ a b c d a' b' c' d' : Int, [a, b, c, d].Perm [a', b', c', d'] → mean4 a b c d = mean4 a' b' c' d')
    ∧ mean4 7 0 0 0 = 1 ∧ mean4 (-7) 0 0 0 = -1 ∧ mean4 (-1) 0 0 0 = 0 ∧ mean4 (-2) 0 0 0 = 0
    ∧ mean4 (-3) 0 0 0 = 0 ∧ mean4 (-4) 0 0 0 = -1 ∧ mean4 3 0 0 0 = 0 ∧ mean4 4 0 0 0 = 1
    ∧ (-7 : Int) >>> 2 = -2 ∧ (-1 : Int) >>> 2 = -1

/-- R124 (derived from R123, R21): over samples in range the sum fits 16 bits and the mean is a sample in range. -/
def Obligations.MeanStaysInRange : Prop :=
  ∀ a b c d : Sample, inSampleRange a → inSampleRange b → inSampleRange c → inSampleRange d →
    -32768 ≤ a.toInt + b.toInt + c.toInt + d.toInt ∧ a.toInt + b.toInt + c.toInt + d.toInt ≤ 32764
      ∧ ∃ m, Window.mean ⟨some a, some b, some c, some d⟩ = some m ∧ inSampleRange m
          ∧ m.toInt = Int.tdiv (a.toInt + b.toInt + c.toInt + d.toInt) 4

/-- R151: the level of a distance: 1 below `M/8`, 2 below the exact quotient `M/6`, else 3, with `M` = 16384. -/
def Obligations.LevelOfADistance : Prop :=
  (∀ v r : Int,
      (blinkLevel v r = 1 ↔ 8 * (v - r).natAbs < 16384)
        ∧ (blinkLevel v r = 2 ↔ 16384 ≤ 8 * (v - r).natAbs ∧ 6 * (v - r).natAbs < 16384)
        ∧ (blinkLevel v r = 3 ↔ 16384 ≤ 6 * (v - r).natAbs)
        ∧ blinkLevel v r ≠ 0
        ∧ blinkLevel v r
          = if (v - r).natAbs < 2048 then 1 else if (v - r).natAbs < 2731 then 2 else 3)
    ∧ blinkLevel 500 0 = 1 ∧ blinkLevel 2047 0 = 1 ∧ blinkLevel 2048 0 = 2 ∧ blinkLevel 2730 0 = 2
    ∧ blinkLevel 2731 0 = 3 ∧ blinkLevel 3000 0 = 3 ∧ blinkLevel 16383 0 = 3

/-- R152: the four branches of the classification policy, which exclude one another and leave nothing out. -/
def Obligations.ClassificationPolicy : Prop :=
  ∀ (cur ref : Int) (pos neg : Level),
    ((cur - ref).natAbs < 50 → classify cur ref pos neg = (0, 0))
      ∧ (cur - ref ≤ -500 → classify cur ref pos neg = (pos, blinkLevel cur ref))
      ∧ (cur - ref ≥ 500 → classify cur ref pos neg = (blinkLevel cur ref, neg))
      ∧ (50 ≤ (cur - ref).natAbs → (cur - ref).natAbs ≤ 499 → classify cur ref pos neg = (pos, neg))

/-- R154 (derived from R152): a level stays nonzero until a classification lands in the deadzone; a swing to the
opposite zone leaves both levels nonzero; from (0, 0) the gap leaves (0, 0). -/
def Obligations.LevelsPersistOutsideTheDeadzone : Prop :=
  (∀ (cur ref : Int) (pos neg : Level), 50 ≤ (cur - ref).natAbs →
      (pos ≠ 0 → (classify cur ref pos neg).1 ≠ 0) ∧ (neg ≠ 0 → (classify cur ref pos neg).2 ≠ 0)
        ∧ (cur - ref < 500 → (classify cur ref pos neg).1 = pos)
        ∧ (-500 < cur - ref → (classify cur ref pos neg).2 = neg))
    ∧ (∀ (cur ref : Int) (pos : Level), pos ≠ 0 → cur - ref ≤ -500 →
        (classify cur ref pos 0).1 ≠ 0 ∧ (classify cur ref pos 0).2 ≠ 0)
    ∧ (∀ cur ref : Int, 50 ≤ (cur - ref).natAbs → (cur - ref).natAbs ≤ 499 → classify cur ref 0 0 = (0, 0))

/-! ### Executing a command -/

/-- R100: a command word is discarded in `PH_HALTED`; else `ILLEGAL_COMMAND`, else `SEQUENCE_ERROR`, else its own rule;
the legality table; and no command is taken while the port is not ready. -/
def Obligations.CommandsRunTheChecksInOrder : Prop :=
  (∀ (w : Word) (s : State),
      (s.phase = .halted → cmdEvent w s = .next s)
        ∧ (s.phase ≠ .halted → ∀ e, decode w = .error e → cmdEvent w s = .next (raise .illegalCommand w s))
        ∧ (s.phase ≠ .halted → ∀ i, decode w = .ok i → legal i s.phase = false →
            cmdEvent w s = .next (raise .sequenceError w s))
        ∧ (∀ i, decode w = .ok i → legal i s.phase = true → cmdEvent w s = exec i s))
    ∧ (∀ p, legal .nop p = true ↔ p ≠ .halted)
    ∧ (∀ id p, legal (.init id) p = true ↔ p = .reset)
    ∧ (∀ a hi lo p, legal (.ldb a hi lo) p = true ↔ p = .ready ∨ p = .calibrated ∨ p = .running)
    ∧ (∀ p, legal .cal p = true ↔ p = .ready)
    ∧ (∀ a p, legal (.push a) p = true ↔ p = .calibrated ∨ p = .running)
    ∧ (∀ p, legal .adv p = true ↔ p = .calibrated ∨ p = .running)
    ∧ (∀ a p, legal (.cls a) p = true ↔ p = .running)
    ∧ (∀ p, legal .start p = true ↔ p = .calibrated)
    ∧ (∀ (s : State) (w : Word) (rest : List Event),
        takeEvent (cmdReady s) s.env.pending = some (.cmd w, rest) → cmdReady s = true)

/-- R101: `NOP` changes nothing in any phase, and its word is zero. -/
def Obligations.NopChangesNothing : Prop :=
  encode .nop = 0x00000000 ∧ ∀ s : State, exec .nop s = .next s

/-- R102: `INIT` in `PH_RESET` moves to `PH_READY` when the byte matches and changes nothing else; when it does not, it
raises `IDENTITY_MISMATCH`; in every other phase it is a `SEQUENCE_ERROR`. -/
def Obligations.InitChecksTheIdentity : Prop :=
  ∀ (id : Byte) (s : State),
    encode (.init id) = 0x10000000 ||| id.setWidth 32
      ∧ (s.phase = .reset → id = Config.deviceId → exec (.init id) s = .next { s with phase := .ready })
      ∧ (s.phase = .reset → id ≠ Config.deviceId →
          exec (.init id) s = .next (raise .identityMismatch (0x10000000 ||| id.setWidth 32) s))
      ∧ (s.phase = .ready ∨ s.phase = .calibrated ∨ s.phase = .running →
          exec (.init id) s = .next (raise .sequenceError (0x10000000 ||| id.setWidth 32) s))

/-- R104: `LDB` in `PH_READY`, `PH_CALIBRATED`, `PH_RUNNING` writes the reconstructed sample into `RAW` of its axis and
changes nothing else; in `PH_RESET` it is a `SEQUENCE_ERROR`; with `AX` = 3 or `MBZ` not zero it is an
`ILLEGAL_COMMAND`. -/
def Obligations.LdbWritesTheSample : Prop :=
  (∀ (a : Axis) (hi lo : Byte) (s : State),
    encode (.ldb a hi lo)
        = 0x20000000 ||| ((axField a).setWidth 32 <<< 26) ||| (hi.setWidth 32 <<< 8) ||| lo.setWidth 32
      ∧ (s.phase = .ready ∨ s.phase = .calibrated ∨ s.phase = .running →
          ∃ v : Sample, v.toInt = unpack14 hi lo ∧ exec (.ldb a hi lo) s = .next { s with raw := s.raw.set a (some v) }
            ∧ (s.raw.set a (some v)).get a = some v ∧ ∀ b, b ≠ a → (s.raw.set a (some v)).get b = s.raw.get b)
      ∧ (s.phase = .reset → exec (.ldb a hi lo) s = .next (raise .sequenceError (encode (.ldb a hi lo)) s)))
    ∧ ∀ (w : Word) (s : State), fieldOpc w = 2 → fieldAx w = 3 ∨ fieldMbz w ≠ 0 → s.phase ≠ .halted →
        cmdEvent w s = .next (raise .illegalCommand w s)

/-- R140: `CAL` in `PH_READY` without both samples raises `NO_VALUE`; with them it adds them to the sums and counts;
the tenth one writes both references, moves to `PH_CALIBRATED` and starts the acknowledgement; in every other phase it
is a `SEQUENCE_ERROR`. In a state of the invariant the sums are exact and the count is below ten before `CAL`. -/
def Obligations.CalAccumulatesAndFinishes : Prop :=
  encode .cal = 0x30000000 ∧ ∀ s : State,
    (s.phase = .ready → s.raw.x = none ∨ s.raw.y = none → exec .cal s = .next (raise .noValue 0x30000000 s))
      ∧ (∀ rx ry, s.phase = .ready → s.raw.x = some rx → s.raw.y = some ry → s.caln.toNat + 1 ≠ 10 →
          exec .cal s = .next { s with
            acc := ⟨BitVec.ofInt 18 (s.acc.x.toInt + rx.toInt), BitVec.ofInt 18 (s.acc.y.toInt + ry.toInt)⟩
            caln := s.caln + 1 })
      ∧ (∀ rx ry, s.phase = .ready → s.raw.x = some rx → s.raw.y = some ry → s.caln.toNat + 1 = 10 →
          exec .cal s = .next { s with
            acc := ⟨BitVec.ofInt 18 (s.acc.x.toInt + rx.toInt), BitVec.ofInt 18 (s.acc.y.toInt + ry.toInt)⟩
            caln := 10
            ref := ⟨some (BitVec.ofInt 16 (Int.tdiv (s.acc.x.toInt + rx.toInt) 10)),
              some (BitVec.ofInt 16 (Int.tdiv (s.acc.y.toInt + ry.toInt) 10))⟩
            phase := .calibrated
            stg := .ackOn1
            k := 0
            tmr := 200
            led := .on3 })
      ∧ (∀ rx ry, Inv s → s.phase = .ready → s.raw.x = some rx → s.raw.y = some ry →
          (BitVec.ofInt 18 (s.acc.x.toInt + rx.toInt)).toInt = s.acc.x.toInt + rx.toInt
            ∧ (BitVec.ofInt 18 (s.acc.y.toInt + ry.toInt)).toInt = s.acc.y.toInt + ry.toInt
            ∧ (s.caln + 1).toNat = s.caln.toNat + 1)
      ∧ (Inv s → s.phase = .ready → s.caln.toNat ≤ 9)
      ∧ (s.phase = .reset ∨ s.phase = .calibrated ∨ s.phase = .running →
          exec .cal s = .next (raise .sequenceError 0x30000000 s))

/-- R121 (derived, for the clause on the term `push .Z`, which no word decodes to: that exec of it does what the block
does with the word of `PUSH Z` is log entry 13): `PUSH` in `PH_CALIBRATED` and `PH_RUNNING` writes `RAW` of its axis into the slot `WIDX` of its window and,
when all four slots then hold values, the mean of the window after the write into `FILT`; it changes nothing else.
`NO_VALUE`, `SEQUENCE_ERROR` and, of a word with `AX` 2 or 3, `ILLEGAL_COMMAND` as the rule says. -/
def Obligations.PushInsertsAndAverages : Prop :=
  (∀ (a : FAxis) (s : State) (v : Sample), s.phase = .calibrated ∨ s.phase = .running →
      s.raw.get a.toAxis = some v →
      ∃ w : Window, w.get s.widx = some v ∧ (∀ i, i ≠ s.widx → w.get i = (s.win.get a).get i)
        ∧ (∀ s0 s1 s2 s3, w = ⟨some s0, some s1, some s2, some s3⟩ →
            exec (.push a.toAxis) s = .next { s with
              win := s.win.set a w
              filt := s.filt.set a
                (some (BitVec.ofInt 16 (Int.tdiv (s0.toInt + s1.toInt + s2.toInt + s3.toInt) 4))) })
        ∧ ((∃ i, w.get i = none) → exec (.push a.toAxis) s = .next { s with win := s.win.set a w }))
    ∧ (∀ (a : FAxis) (s : State), s.phase = .calibrated ∨ s.phase = .running → s.raw.get a.toAxis = none →
        exec (.push a.toAxis) s = .next (raise .noValue (encode (.push a.toAxis)) s))
    ∧ (∀ (a : FAxis) (s : State), s.phase = .reset ∨ s.phase = .ready →
        exec (.push a.toAxis) s = .next (raise .sequenceError (encode (.push a.toAxis)) s))
    ∧ (∀ s : State, s.phase ≠ .halted → exec (.push .Z) s = .next (raise .illegalCommand 0x48000000 s))
    ∧ (∀ (w : Word) (s : State), fieldOpc w = 4 → fieldAx w = 2 ∨ fieldAx w = 3 → s.phase ≠ .halted →
        cmdEvent w s = .next (raise .illegalCommand w s))
    ∧ encode (.push .X) = 0x40000000 ∧ encode (.push .Y) = 0x44000000

/-- R122: `ADV` in `PH_CALIBRATED` and `PH_RUNNING` advances `WIDX` modulo 4 and changes nothing else; in `PH_RESET`
and `PH_READY` it is a `SEQUENCE_ERROR`. -/
def Obligations.AdvWrapsModuloFour : Prop :=
  encode .adv = 0x50000000 ∧ ∀ s : State,
    (s.phase = .calibrated ∨ s.phase = .running →
        exec .adv s = .next { s with widx := s.widx + 1 } ∧ (s.widx + 1).toNat = (s.widx.toNat + 1) % 4)
      ∧ (s.phase = .reset ∨ s.phase = .ready → exec .adv s = .next (raise .sequenceError 0x50000000 s))

/-- R153 (derived, for the clause on the term `cls .Z`, which no word decodes to: that exec of it does what the block
does with the word of `CLS Z` is log entry 13): `CLS` in `PH_RUNNING` writes the classified pair of its own axis and changes nothing else; without a smoothed
reading it raises `NO_VALUE`; in the earlier phases it is a `SEQUENCE_ERROR`; with `AX` 2 or 3 an `ILLEGAL_COMMAND`;
repeating it with the same reading writes the same pair. -/
def Obligations.ClsWritesItsPair : Prop :=
  (∀ (a : FAxis) (s : State) (c r : Sample), s.phase = .running → s.filt.get a = some c → s.ref.get a = some r →
      exec (.cls a.toAxis) s = .next { s with
        lvl := s.lvl.setPair a (classify c.toInt r.toInt (s.lvl.pos a) (s.lvl.neg a)) })
    ∧ (∀ (a : FAxis) (s : State), Inv s → s.phase = .running → ∃ r, s.ref.get a = some r)
    ∧ (∀ (a : FAxis) (l : Levels) (p : Level × Level),
        (l.setPair a p).pos a = p.1 ∧ (l.setPair a p).neg a = p.2
          ∧ ∀ b, b ≠ a → (l.setPair a p).pos b = l.pos b ∧ (l.setPair a p).neg b = l.neg b)
    ∧ (∀ (a : FAxis) (s : State), s.phase = .running → s.filt.get a = none →
        exec (.cls a.toAxis) s = .next (raise .noValue (encode (.cls a.toAxis)) s))
    ∧ (∀ (a : FAxis) (s : State), s.phase = .reset ∨ s.phase = .ready ∨ s.phase = .calibrated →
        exec (.cls a.toAxis) s = .next (raise .sequenceError (encode (.cls a.toAxis)) s))
    ∧ (∀ s : State, s.phase ≠ .halted → exec (.cls .Z) s = .next (raise .illegalCommand 0x68000000 s))
    ∧ (∀ (w : Word) (s : State), fieldOpc w = 6 → fieldAx w = 2 ∨ fieldAx w = 3 → s.phase ≠ .halted →
        cmdEvent w s = .next (raise .illegalCommand w s))
    ∧ (∀ (c r : Int) (p n : Level), classify c r (classify c r p n).1 (classify c r p n).2 = classify c r p n)
    ∧ encode (.cls .X) = 0x60000000 ∧ encode (.cls .Y) = 0x64000000

/-- R174 (derived: its corner case (b), the third clause, is the spec's own inference from R100 and R44): `START` in
`PH_CALIBRATED` moves to `PH_RUNNING` and takes the first snapshot; since no `CLS` can precede it, that snapshot is all
zero and the engine enters `ZT` with the indicator off for `T_TICK` ticks; in the other phases it
is a `SEQUENCE_ERROR`. When the port takes a command in `PH_CALIBRATED` the engine is off. -/
def Obligations.StartTakesTheFirstSnapshot : Prop :=
  ∀ s : State,
    encode .start = 0x70000000
      ∧ (s.phase = .calibrated → exec .start s = .next (beginCycle { s with phase := .running }))
      ∧ (Inv s → s.phase = .calibrated → exec .start s = .next { s with
          phase := .running, snap := ⟨0, 0, 0, 0⟩, stg := .zt, k := 0, tmr := BitVec.ofNat 16 Config.tTick
          led := .off3 })
      ∧ (Inv s → s.phase = .calibrated → cmdReady s = true → s.stg = .off)
      ∧ (s.phase = .reset ∨ s.phase = .ready ∨ s.phase = .running →
          exec .start s = .next (raise .sequenceError 0x70000000 s))

/-- R250 (derived from R174): after `START` the indicator stays off for `T_TICK` ticks, and `T_TICK` is at least 1. -/
def Obligations.FirstCycleIsOff : Prop :=
  ∀ s t : State, Inv s → s.phase = .calibrated → exec .start s = .next t →
    1 ≤ Config.tTick ∧ ∀ n, n < Config.tTick → (ticks n t).stg = .zt ∧ (ticks n t).led = .off3

/-- R210, R217 (derived): every command and every event answers a next state, and none touches what the environment has
still pending. -/
def Obligations.NothingStopsTheBlock : Prop :=
  (∀ (i : Instr) (s : State), ∃ t, exec i s = .next t ∧ t.env = s.env)
    ∧ (∀ (e : Event) (s : State), ∃ t, runEvent e s = .next t ∧ t.env.pending = s.env.pending)
    ∧ ∀ s : State, ∃ t, step s = .next t

/-! ### Faults -/

/-- R214: fault entry. Raising records the code and the command word, halts the phase and the engine with the indicator
off and changes nothing else; a command event that halts the block is such an entry, of the state before it, with a
nonzero code and its own word. -/
def Obligations.FaultEntryRecordsAndHalts : Prop :=
  (∀ (c : FaultCode) (w : Word) (s : State), raise c w s = { s with
      fault := c, fcmd := w, phase := .halted, stg := .halt, k := 0, tmr := 0, led := .off3 })
    ∧ (∀ (w : Word) (s t : State), s.phase ≠ .halted → cmdEvent w s = .next t → t.phase = .halted →
        t.fault ≠ .none ∧ faultPin t = true ∧ t = { s with
          fault := t.fault, fcmd := w, phase := .halted, stg := .halt, k := 0, tmr := 0, led := .off3 })
    ∧ (∀ (w : Word) (s t : State), s.phase = .halted → cmdEvent w s = .next t → t = s)

/-- R215 (derived): a command that faults and a tick, presented in the same cycle, end with the engine halted and the
indicator off in either order. -/
def Obligations.FaultAndTickInEitherOrder : Prop :=
  ∀ (w : Word) (s t : State), s.phase ≠ .halted → cmdEvent w s = .next t → t.phase = .halted →
    ((tick t).stg = .halt ∧ (tick t).led = .off3 ∧ (tick t).phase = .halted)
      ∧ ∃ u, cmdEvent w (tick s) = .next u ∧ u.stg = .halt ∧ u.led = .off3 ∧ u.phase = .halted
          ∧ u.fault = t.fault ∧ u.fcmd = t.fcmd

/-- R216, R217: in the halted state the port is ready, every command word is discarded, every tick does nothing and
every read leaves the block as it is; only `Reset` leaves it, and it clears `FAULT` and `FCMD`. -/
def Obligations.OnlyResetLeavesTheHaltedState : Prop :=
  (∀ s : State, s.phase = .halted → s.stg = .halt →
      cmdReady s = true ∧ (∀ w, runEvent (.cmd w) s = .next s) ∧ runEvent .tick s = .next s
        ∧ ∀ a, ∃ t, runEvent (.read a) s = .next t ∧ t.env.rdData = some (rdData a s) ∧ { t with env := s.env } = s)
    ∧ (∀ (e : Event) (s t : State), s.phase = .halted → runEvent e s = .next t → t.phase ≠ .halted → e = .reset)
    ∧ ∀ s t : State, runEvent .reset s = .next t → t.phase = .reset ∧ t.fault = .none ∧ t.fcmd = 0

/-- R32: the values of `PHASE`; 4, 5 and 6 never occur; `PHASE` only moves from 0 to 1 by `INIT` with the expected byte,
from 1 to 2 by the tenth `CAL`, from 2 to 3 by `START`, or from any of these to 7 by a command; only `Reset` moves it
back to 0. -/
def Obligations.PhaseOnlyMovesForward : Prop :=
  (Phase.reset.code = 0 ∧ Phase.ready.code = 1 ∧ Phase.calibrated.code = 2 ∧ Phase.running.code = 3
      ∧ Phase.halted.code = 7 ∧ ∀ p : Phase, p.code ≠ 4 ∧ p.code ≠ 5 ∧ p.code ≠ 6)
    ∧ ∀ (e : Event) (s t : State), runEvent e s = .next t → t.phase ≠ s.phase →
    (e = .reset ∧ t.phase = .reset)
      ∨ ∃ w, e = .cmd w ∧ s.phase ≠ .halted
        ∧ (t.phase = .halted
          ∨ (s.phase = .reset ∧ t.phase = .ready ∧ decode w = .ok (.init Config.deviceId))
          ∨ (s.phase = .ready ∧ t.phase = .calibrated ∧ decode w = .ok .cal ∧ s.caln.toNat + 1 = 10)
          ∨ (s.phase = .calibrated ∧ t.phase = .running ∧ decode w = .ok .start))

/-! ### Who writes what -/

/-- R21 to R27: each data register and each level is written only by its own command (or by `Reset`). -/
def Obligations.DataRegistersHaveOneWriter : Prop :=
  ∀ (e : Event) (s t : State), runEvent e s = .next t → e ≠ .reset →
    (∀ a, t.raw.get a ≠ s.raw.get a → ∃ w hi lo, e = .cmd w ∧ decode w = .ok (.ldb a hi lo))
      ∧ (∀ (a : FAxis) i, (t.win.get a).get i ≠ (s.win.get a).get i →
          i = s.widx ∧ ∃ w, e = .cmd w ∧ decode w = .ok (.push a.toAxis))
      ∧ (t.widx ≠ s.widx → ∃ w, e = .cmd w ∧ decode w = .ok .adv)
      ∧ (∀ a : FAxis, t.filt.get a ≠ s.filt.get a → ∃ w, e = .cmd w ∧ decode w = .ok (.push a.toAxis))
      ∧ (t.acc ≠ s.acc ∨ t.caln ≠ s.caln → ∃ w, e = .cmd w ∧ decode w = .ok .cal)
      ∧ (t.ref ≠ s.ref → s.caln.toNat + 1 = 10 ∧ ∃ w, e = .cmd w ∧ decode w = .ok .cal)
      ∧ (∀ a : FAxis, t.lvl.pos a ≠ s.lvl.pos a ∨ t.lvl.neg a ≠ s.lvl.neg a →
          ∃ w, e = .cmd w ∧ decode w = .ok (.cls a.toAxis))

/-- R21, R140, C5 (derived): no command reads `RAW[Z]`: of two states that differ in it alone every command makes two
states that differ in it alone. -/
def Obligations.NoCommandReadsTheZSample : Prop :=
  ∀ (i : Instr) (s t : State) (z : Option Sample), exec i s = .next t →
    ∃ z', exec i { s with raw := { s.raw with z := z } } = .next { t with raw := { t.raw with z := z' } }

/-- R68, R170 (derived): the sample path writes the engine's registers at three points only: the tenth `CAL`, which
starts the acknowledgement, `START`, which begins the first cycle, and fault entry, from a state that is not halted.
`SNAP` is written at `START` only. -/
def Obligations.SamplePathHandsOverAtThreePoints : Prop :=
  ∀ (i : Instr) (s t : State), exec i s = .next t →
    (t.stg = s.stg ∧ t.k = s.k ∧ t.tmr = s.tmr ∧ t.led = s.led ∧ t.snap = s.snap)
      ∨ (i = .cal ∧ s.phase = .ready ∧ s.caln.toNat + 1 = 10
        ∧ t.stg = .ackOn1 ∧ t.k = 0 ∧ t.tmr = 200 ∧ t.led = .on3 ∧ t.snap = s.snap)
      ∨ (i = .start ∧ s.phase = .calibrated ∧ t = beginCycle { s with phase := .running })
      ∨ (s.phase ≠ .halted ∧ t.phase = .halted
        ∧ t.stg = .halt ∧ t.k = 0 ∧ t.tmr = 0 ∧ t.led = .off3 ∧ t.snap = s.snap)

/-- R176, R210 (derived): a tick changes nothing but the engine's five registers, so it never faults. -/
def Obligations.TickChangesOnlyTheEngine : Prop :=
  ∀ s : State, tick s = { s with
    snap := (tick s).snap, stg := (tick s).stg, k := (tick s).k, tmr := (tick s).tmr, led := (tick s).led }

/-- R142: once the calibration is over, no event but `Reset` changes the reference, the sums or the count; an eleventh
`CAL` is a `SEQUENCE_ERROR`. -/
def Obligations.ReferenceIsImmutable : Prop :=
  (∀ (e : Event) (s t : State), runEvent e s = .next t → e ≠ .reset →
      s.phase = .calibrated ∨ s.phase = .running ∨ s.phase = .halted →
      t.ref = s.ref ∧ t.acc = s.acc ∧ t.caln = s.caln)
    ∧ (∀ s : State, s.phase = .calibrated ∨ s.phase = .running →
        exec .cal s = .next (raise .sequenceError 0x30000000 s))
    ∧ ∀ s t : State, runEvent .reset s = .next t → t.ref = ⟨none, none⟩

/-- R28 (valid bits): no event but `Reset` takes the value of a register away. -/
def Obligations.ValidBitsStaySet : Prop :=
  ∀ (e : Event) (s t : State), runEvent e s = .next t → e ≠ .reset →
    (∀ a, has (s.raw.get a) = true → has (t.raw.get a) = true)
      ∧ (∀ (a : FAxis) i, has ((s.win.get a).get i) = true → has ((t.win.get a).get i) = true)
      ∧ (∀ a : FAxis, has (s.filt.get a) = true → has (t.filt.get a) = true)
      ∧ (∀ a : FAxis, has (s.ref.get a) = true → has (t.ref.get a) = true)

/-! ### Programs of a few commands, from every state -/

/-- R144 (derived from R140): ten `CAL` over a constant sample `K` give the reference `K` exactly. -/
def Obligations.ConstantStreamCalibratesExactly : Prop :=
  ∀ (s : State) (v : Sample), s.phase = .ready → s.caln = 0 → s.acc = ⟨0, 0⟩ → inSampleRange v →
    s.raw.x = some v → s.raw.y = some v →
    ∃ t, execAll (List.replicate 10 .cal) s = .next t ∧ t.ref = ⟨some v, some v⟩ ∧ t.phase = .calibrated
      ∧ t.acc.x.toInt = 10 * v.toInt ∧ t.acc.y.toInt = 10 * v.toInt

/-- R125 (derived from R121, R122): after four pushes of an axis with one `ADV` between each two, the window holds
exactly the four samples and the smoothed reading is their truncated mean, whatever the window held before. -/
def Obligations.MeanOfTheFourMostRecent : Prop :=
  ∀ (a : FAxis) (s : State) (v1 v2 v3 v4 : Int), s.phase = .calibrated ∨ s.phase = .running →
    (∀ v ∈ [v1, v2, v3, v4], -8192 ≤ v ∧ v ≤ 8191) →
    ∃ t, execAll
        [.ldb a.toAxis (packHi v1) (packLo v1), .push a.toAxis, .adv,
          .ldb a.toAxis (packHi v2) (packLo v2), .push a.toAxis, .adv,
          .ldb a.toAxis (packHi v3) (packLo v3), .push a.toAxis, .adv,
          .ldb a.toAxis (packHi v4) (packLo v4), .push a.toAxis] s = .next t
      ∧ (∃ m : Sample, t.filt.get a = some m ∧ m.toInt = Int.tdiv (v1 + v2 + v3 + v4) 4)
      ∧ ((t.win.get a).get s.widx).map BitVec.toInt = some v1
      ∧ ((t.win.get a).get (s.widx + 1)).map BitVec.toInt = some v2
      ∧ ((t.win.get a).get (s.widx + 2)).map BitVec.toInt = some v3
      ∧ ((t.win.get a).get (s.widx + 3)).map BitVec.toInt = some v4

/-- R126, R91 (derived): after `PREFILL` both axes have a smoothed reading and `WIDX` is back where it was. -/
def Obligations.PrefillFillsBothWindows : Prop :=
  ∀ (s : State) (v1 v2 v3 v4 : Xyz Int), s.phase = .calibrated →
    (∀ v ∈ [v1, v2, v3, v4], ∀ a, -8192 ≤ v.get a ∧ v.get a ≤ 8191) →
    ∃ prog t, prefill [v1, v2, v3, v4] = some prog ∧ execAll prog s = .next t
      ∧ has (t.filt.get .X) = true ∧ has (t.filt.get .Y) = true ∧ t.widx = s.widx ∧ t.phase = .calibrated

/-! ### The pulse engine -/

/-- R171: the functions of a snapshot. -/
def Obligations.SnapshotFunctions : Prop :=
  ∀ (l : Levels) (k : Nat),
    (xact l k = true ↔ k ≤ l.px.toNat + l.nx.toNat) ∧ (yact l k = true ↔ k ≤ l.py.toNat + l.ny.toNat)
      ∧ xcol l = ⟨false, decide (l.nx ≠ 0), true⟩ ∧ ycol l = ⟨true, decide (l.ny ≠ 0), false⟩
      ∧ roundIdle l k
        = 400 - 200 * (if k ≤ l.px.toNat + l.nx.toNat then 1 else 0)
            - 200 * (if k ≤ l.py.toNat + l.ny.toNat then 1 else 0)
      ∧ (allZero l = true ↔ l.px = 0 ∧ l.nx = 0 ∧ l.py = 0 ∧ l.ny = 0)

/-- R172: beginning a cycle copies the four levels at once, then holds the indicator off for `T_TICK` ticks when all
are zero and else seeks the first stage of round 1 with the new snapshot; no event but `START`, `Tick` (and `Reset`)
writes `SNAP`. -/
def Obligations.BeginCycleSnapshots : Prop :=
  (∀ s : State,
    (allZero s.lvl = true → beginCycle s = { s with
        snap := s.lvl, stg := .zt, k := 0, tmr := BitVec.ofNat 16 Config.tTick, led := .off3 })
      ∧ (allZero s.lvl = false → beginCycle s = seek 1 0 { s with snap := s.lvl }))
    ∧ ∀ (e : Event) (s t : State), runEvent e s = .next t → t.snap ≠ s.snap →
        e = .reset ∨ e = .tick ∨ ∃ w, e = .cmd w ∧ decode w = .ok .start

/-- R173 (derived; the equation alone, that every call ends is the next statement): the equation of `pe_seek`, which the
model's definition without recursion meets. -/
def Obligations.SeekFindsTheNextStage : Prop :=
  ∀ (k p : Nat) (s : State),
    seek k p s
      = if p = 0 ∧ xact s.snap k = true then
          { s with stg := .xp, k := BitVec.ofNat 2 k, tmr := 100, led := xcol s.snap }
        else if p ≤ 1 ∧ yact s.snap k = true then
          { s with stg := .yp, k := BitVec.ofNat 2 k, tmr := 100, led := ycol s.snap }
        else if roundIdle s.snap k > 0 then
          { s with stg := .ri, k := BitVec.ofNat 2 k, tmr := BitVec.ofNat 16 (roundIdle s.snap k) }
        else if k < 3 then seek (k + 1) 0 s
        else beginCycle s

/-- R173 (derived from R171): every search and every beginning of a cycle ends in a timed stage of at least one tick. -/
def Obligations.EverySearchEndsInATimedStage : Prop :=
  ∀ s : State, ((beginCycle s).stg.isTimed = true ∧ 1 ≤ (beginCycle s).tmr.toNat)
    ∧ ∀ k p, (seek k p s).stg.isTimed = true ∧ 1 ≤ (seek k p s).tmr.toNat

/-- R176: `Tick`, stage by stage; a stage with `D` ticks to go is left by the `D`-th tick; `Tick` never faults and does
not depend on `PHASE` except through `STG`. -/
def Obligations.TickEndsStagesOnTime : Prop :=
  (∀ s : State,
    (s.stg = .off ∨ s.stg = .halt → tick s = s)
      ∧ (s.stg ≠ .off → s.stg ≠ .halt → 1 < s.tmr.toNat → tick s = { s with tmr := s.tmr - 1 })
      ∧ (s.tmr = 1 →
        (s.stg = .ackOn1 → tick s = { s with stg := .ackOff1, tmr := 200, led := .off3 })
          ∧ (s.stg = .ackOff1 → tick s = { s with stg := .ackOn2, tmr := 200, led := .on3 })
          ∧ (s.stg = .ackOn2 → tick s = { s with stg := .ackOff2, tmr := 200, led := .off3 })
          ∧ (s.stg = .ackOff2 → tick s = { s with stg := .off, tmr := 0, led := .off3 })
          ∧ (s.stg = .xp → tick s = { s with stg := .xn, tmr := 100, led := .on3 })
          ∧ (s.stg = .xn → tick s = seek s.k.toNat 1 s)
          ∧ (s.stg = .yp → tick s = { s with stg := .yn, tmr := 100, led := .on3 })
          ∧ (s.stg = .yn → tick s = seek s.k.toNat 2 s)
          ∧ (s.stg = .ri → s.k.toNat < 3 → tick s = seek (s.k.toNat + 1) 0 s)
          ∧ (s.stg = .ri → s.k.toNat = 3 → tick s = beginCycle s)
          ∧ (s.stg = .zt → tick s = beginCycle s)))
    ∧ (∀ (s : State) (n : Nat), s.stg ≠ .off → s.stg ≠ .halt → n < s.tmr.toNat →
        ticks n s = { s with tmr := BitVec.ofNat 16 (s.tmr.toNat - n) }
          ∧ ticks s.tmr.toNat s = tick { s with tmr := 1 })
    ∧ ∀ (s : State) (p : Phase), tick { s with phase := p } = { tick s with phase := p }
        ∧ (tick s).phase = s.phase ∧ (tick s).fault = s.fault

/-- R175, R177, R141 (derived): the acknowledgement that the tenth `CAL` starts drives on, off, on, off for 200 ticks
each; the port is held for exactly 800 ticks; then the engine is off. -/
def Obligations.AcknowledgementHoldsThePort : Prop :=
  ∀ s : State, ackStart s = { s with stg := .ackOn1, k := 0, tmr := 200, led := .on3 }
    ∧ (∀ n, n < 800 → cmdReady (ticks n (ackStart s)) = false
        ∧ (ticks n (ackStart s)).led = if n / 200 % 2 = 0 then .on3 else .off3)
    ∧ ticks 800 (ackStart s) = { s with stg := .off, k := 0, tmr := 0, led := .off3 }
    ∧ cmdReady (ticks 800 (ackStart s)) = true

/-- R182 (derived): a tick takes a snapshot exactly when it ends a cycle: it ends `ZT`, or `RI` of round 3, or `YN` of
round 3 with nothing of the round left; else `SNAP` is unchanged. -/
def Obligations.SnapshotsHappenAtCycleEnds : Prop :=
  ∀ s : State, s.tmr.toNat ≤ 1 →
    (s.stg = .zt ∨ (s.stg = .ri ∧ s.k = 3) ∨ (s.stg = .yn ∧ s.k = 3 ∧ roundIdle s.snap 3 = 0) →
        tick s = beginCycle s ∧ (tick s).snap = s.lvl)
      ∧ (¬(s.stg = .zt ∨ (s.stg = .ri ∧ s.k = 3) ∨ (s.stg = .yn ∧ s.k = 3 ∧ roundIdle s.snap 3 = 0)) →
          (tick s).snap = s.snap)
      ∧ ∀ m, 1 < m → m < 65536 → (tick { s with tmr := BitVec.ofNat 16 m }).snap = s.snap

/-- R178 (derived): the stage machine drives the segment form. From the beginning of a cycle, after `n` ticks the
indicator is that of the segment list of the snapshot, the snapshot is kept, and when the list is used up a new cycle
begins with a new snapshot, which takes no tick of its own. -/
def Obligations.StageMachineRefinesSegmentForm : Prop :=
  ∀ s : State,
    (∀ n, n < segmentTicks (cycleSegments s.lvl) →
        (ticks n (beginCycle s)).led = segmentLed (cycleSegments s.lvl) n
          ∧ (ticks n (beginCycle s)).snap = s.lvl)
      ∧ ticks (segmentTicks (cycleSegments s.lvl)) (beginCycle s) = beginCycle s

/-- R179 (derived from R178): every round lasts 400 ticks, every cycle that is not all zero 1200, an all-zero cycle
`T_TICK`. -/
def Obligations.CycleDurations : Prop :=
  ∀ l : Levels, (∀ k, segmentTicks (roundSegments l k) = 400)
    ∧ (allZero l = false → segmentTicks (cycleSegments l) = 1200)
    ∧ (allZero l = true → segmentTicks (cycleSegments l) = Config.tTick)

/-- R180 (derived from R171): in one cycle an axis emits `min(3, pos + neg)` pulses of its colour. -/
def Obligations.PulseCounts : Prop :=
  ∀ l : Levels,
    (cycleSegments l).count (xcol l, 100) = min 3 (l.px.toNat + l.nx.toNat)
      ∧ (cycleSegments l).count (ycol l, 100) = min 3 (l.py.toNat + l.ny.toNat)

/-- R73, R246 (derived from R172, R179): in a running state of the invariant the current levels, if nothing rewrites
them, are in a new snapshot after at most `max(1200, T_TICK)` ticks, with the first stage of the cycle they select. -/
def Obligations.StalenessIsBounded : Prop :=
  ∀ s : State, Inv s → s.phase = .running →
    ∃ n, 1 ≤ n ∧ n ≤ max 1200 Config.tTick ∧ ticks n s = beginCycle s ∧ (ticks n s).snap = s.lvl

/-- R223, R183 (derived from R171, R173, R176): in a state of the invariant the indicator is one of six values, never
green alone nor red with blue; and a tick that leads into `RI`, or stays in it, finds it at `ON3` and leaves it there. -/
def Obligations.IndicatorShowsSixValues : Prop :=
  ∀ s : State, Inv s →
    s.led ∈ [⟨false, false, false⟩, ⟨true, true, true⟩, ⟨false, false, true⟩, ⟨false, true, true⟩,
        ⟨true, false, false⟩, ⟨true, true, false⟩]
      ∧ s.led ≠ ⟨false, true, false⟩ ∧ s.led ≠ ⟨true, false, true⟩
      ∧ ((tick s).stg = .ri → s.led = .on3 ∧ (tick s).led = .on3)

/-! ### Reset, ports and reads -/

/-- R240, R241, R44: `Reset` puts every state element at its reset value, whatever the state before; then the port is
ready, the `fault` pin is 0 and the machine's state after reset is that state. -/
def Obligations.ResetLeavesTheResetTable : Prop :=
  (∀ s : State, runEvent .reset s = .next
      { raw := ⟨none, none, none⟩
        win := ⟨⟨none, none, none, none⟩, ⟨none, none, none, none⟩⟩
        widx := 0
        filt := ⟨none, none⟩
        acc := ⟨0, 0⟩
        caln := 0
        ref := ⟨none, none⟩
        lvl := ⟨0, 0, 0, 0⟩
        phase := .reset
        fault := .none
        fcmd := 0
        snap := ⟨0, 0, 0, 0⟩
        stg := .off
        k := 0
        tmr := 0
        led := ⟨false, false, false⟩
        env := s.env })
    ∧ runEvent .reset State.reset = .next State.reset
    ∧ cmdReady State.reset = true ∧ faultPin State.reset = false

/-- R39: the read-port map, with the layouts of `FAULTR`, `LVLR`, `SNAPR` and `PER`; the reserved addresses read 0; a
read has no side effect on the block. -/
def Obligations.ReadPortMap : Prop :=
  ∀ s : State,
    readReg 0x00 s = some (statusWord s)
      ∧ readReg 0x01 s = some (s.fault.code.setWidth 32)
      ∧ readReg 0x02 s = some s.fcmd
      ∧ (∃ w, readReg 0x03 s = some w ∧ w.extractLsb' 0 2 = s.lvl.px ∧ w.extractLsb' 2 2 = s.lvl.nx
          ∧ w.extractLsb' 4 2 = s.lvl.py ∧ w.extractLsb' 6 2 = s.lvl.ny ∧ w.extractLsb' 8 24 = 0)
      ∧ (∃ w, readReg 0x04 s = some w ∧ w.extractLsb' 0 2 = s.snap.px ∧ w.extractLsb' 2 2 = s.snap.nx
          ∧ w.extractLsb' 4 2 = s.snap.py ∧ w.extractLsb' 6 2 = s.snap.ny ∧ w.extractLsb' 8 24 = 0)
      ∧ (∃ w, readReg 0x05 s = some w ∧ w.extractLsb' 0 4 = s.stg.code ∧ w.extractLsb' 4 2 = s.k
          ∧ w.getLsbD 8 = s.led.r ∧ w.getLsbD 7 = s.led.g ∧ w.getLsbD 6 = s.led.b
          ∧ w.extractLsb' 9 7 = 0 ∧ w.extractLsb' 16 16 = s.tmr)
      ∧ readReg 0x06 s = s.raw.x.map (·.signExtend 32) ∧ readReg 0x07 s = s.raw.y.map (·.signExtend 32)
      ∧ readReg 0x08 s = s.raw.z.map (·.signExtend 32)
      ∧ readReg 0x09 s = s.filt.x.map (·.signExtend 32) ∧ readReg 0x0A s = s.filt.y.map (·.signExtend 32)
      ∧ readReg 0x0B s = s.ref.x.map (·.signExtend 32) ∧ readReg 0x0C s = s.ref.y.map (·.signExtend 32)
      ∧ readReg 0x0D s = some (s.acc.x.signExtend 32) ∧ readReg 0x0E s = some (s.acc.y.signExtend 32)
      ∧ readReg 0x0F s = some 0
      ∧ (∀ i : BitVec 2, readReg (0x10 + i.setWidth 5) s = ((s.win.get .X).get i).map (·.signExtend 32))
      ∧ (∀ i : BitVec 2, readReg (0x14 + i.setWidth 5) s = ((s.win.get .Y).get i).map (·.signExtend 32))
      ∧ (∀ a : ReadAddr, 0x18 ≤ a.toNat → readReg a s = some 0)
      ∧ ∀ a : ReadAddr, ∃ t, runEvent (.read a) s = .next t ∧ { t with env := s.env } = s

/-- R40: the `STATUS` layout, field by field. -/
def Obligations.StatusLayout : Prop :=
  ∀ s : State,
    (statusWord s).extractLsb' 0 3 = s.phase.code
      ∧ (statusWord s).getLsbD 3 = s.stg.isAck ∧ cmdReady s = !(statusWord s).getLsbD 3
      ∧ (statusWord s).extractLsb' 4 2 = s.widx
      ∧ (∀ i : BitVec 2, (statusWord s).getLsbD (6 + i.toNat) = has ((s.win.get .X).get i)
          ∧ (statusWord s).getLsbD (10 + i.toNat) = has ((s.win.get .Y).get i))
      ∧ (statusWord s).getLsbD 14 = has s.filt.x ∧ (statusWord s).getLsbD 15 = has s.filt.y
      ∧ (statusWord s).getLsbD 16 = has s.raw.x ∧ (statusWord s).getLsbD 17 = has s.raw.y
      ∧ (statusWord s).getLsbD 18 = has s.raw.z
      ∧ (statusWord s).getLsbD 19 = has s.ref.x ∧ (statusWord s).getLsbD 20 = has s.ref.y
      ∧ (Inv s → (statusWord s).getLsbD 19 = (statusWord s).getLsbD 20)
      ∧ (statusWord s).extractLsb' 21 4 = s.caln ∧ (statusWord s).extractLsb' 25 7 = 0

/-- R39, R41, R42: a `Read` leaves the block and what is pending as they are and returns the register's word; where the
register holds no value it returns a free word, a new draw each time (the model's form of R42, log entry 4). -/
def Obligations.ReadReturnsAndChangesNothing : Prop :=
  ∀ (a : ReadAddr) (s : State), ∃ t, runEvent (.read a) s = .next t
    ∧ { t with env := s.env } = s ∧ t.env.pending = s.env.pending
    ∧ (∀ w, readReg a s = some w → t.env.rdData = some w ∧ t.env.draws = s.env.draws)
    ∧ (readReg a s = none →
        t.env.rdData = some (Config.unspecifiedWord s.env.draws) ∧ t.env.draws = s.env.draws + 1)

/-- R37, R38, R177 (derived): the output pins: the indicator channels with the polarity applied, `fault` and
`cmd_ready`. -/
def Obligations.OutputPins : Prop :=
  ∀ s : State, (Config.ledActiveLow = false → ledPins s = s.led)
    ∧ (Config.ledActiveLow = true → ledPins s = ⟨!s.led.r, !s.led.g, !s.led.b⟩)
    ∧ (faultPin s = true ↔ s.fault ≠ .none)
    ∧ (cmdReady s = false ↔ s.stg = .ackOn1 ∨ s.stg = .ackOff1 ∨ s.stg = .ackOn2 ∨ s.stg = .ackOff2)

/-- R38, R215 (derived): the events of a clock cycle: reset overrides everything; a command is taken only when valid and
ready; a command and a tick are two events in either order. -/
def Obligations.ClockCycleEvents : Prop :=
  ∀ (ready first : Bool) (c : Inputs),
    (c.rst = true → cycleEvents ready first c = [.reset])
      ∧ (c.rst = false → ∀ w, .cmd w ∈ cycleEvents ready first c ↔ (c.cmdValid = true ∧ ready = true ∧ w = c.cmd))
      ∧ (c.rst = false → (.tick ∈ cycleEvents ready first c ↔ c.tickMs = true))
      ∧ (c.rst = false → ∀ a, .read a ∈ cycleEvents ready first c ↔ c.rdAddr = some a)
      ∧ (c.rst = false → .reset ∉ cycleEvents ready first c)
      ∧ (c.rst = false → c.cmdValid = true → ready = true → c.tickMs = true → c.rdAddr = none →
          cycleEvents ready true c = [.cmd c.cmd, .tick] ∧ cycleEvents ready false c = [.tick, .cmd c.cmd])

/-! ### Steps -/

/-- R12, R67, R100: when the port is ready and the next pending event is a command word that decodes, the step is `exec`
of what it decodes to, at the state with that event taken; an illegal word is `ILLEGAL_COMMAND` or, in `PH_HALTED`,
discarded. -/
def Obligations.StepRunsTheDecodedCommand : Prop :=
  ∀ (s : State) (w : Word) (rest : List Event), s.env.pending = .cmd w :: rest → cmdReady s = true →
    (∀ i, decode w = .ok i → i.wellFormed = true ∧ step s = exec i (withPending rest s))
      ∧ (∀ e, decode w = .error e → step s = .next (if s.phase = .halted then withPending rest s
          else raise .illegalCommand w (withPending rest s)))

/-- R12, R67 (derived; the waiting of an empty agenda is log entry 2): a pending event that is no command occurs next,
whatever `cmd_ready`; and with nothing pending the block waits unchanged. -/
def Obligations.StepTakesPendingEventsInOrder : Prop :=
  (∀ (s : State) (rest : List Event), s.env.pending = .tick :: rest → step s = .next (tick (withPending rest s)))
    ∧ (∀ (s : State) (rest : List Event), s.env.pending = .reset :: rest →
        step s = .next (resetEvent (withPending rest s)))
    ∧ (∀ (s : State) (a : ReadAddr) (rest : List Event), s.env.pending = .read a :: rest →
        step s = .next (readEvent a (withPending rest s)))
    ∧ ∀ s : State, s.env.pending = [] → step s = .next s

/-- R38, R68, R177 (derived; log entry 3): while the port is not ready the first pending command is held. The step runs
the first pending event that is no command, at the state with that event taken and every command still in its place;
where only commands are pending the block waits. So the block is unchanged, or one tick on, or reset. -/
def Obligations.HeldCommandWaits : Prop :=
  ∀ (s : State) (w : Word), cmdReady s = false →
    (∀ (ws : List Word) (e : Event) (later : List Event), (∀ v, e ≠ .cmd v) →
        s.env.pending = .cmd w :: (ws.map .cmd ++ e :: later) →
        step s = runEvent e (withPending (.cmd w :: (ws.map .cmd ++ later)) s))
      ∧ (∀ ws : List Word, s.env.pending = .cmd w :: ws.map .cmd → step s = .next s)
      ∧ ∀ (t : State) (rest : List Event), s.env.pending = .cmd w :: rest → step s = .next t →
          t.env.pending.head? = some (.cmd w)
            ∧ ({ t with env := s.env } = s ∨ { t with env := s.env } = tick s
              ∨ { t with env := s.env } = resetEvent s)

/-- R45 and the rules it is derived from: the invariant holds at reset. -/
def Obligations.InvariantHoldsAtReset : Prop := Inv State.reset

/-- R45 and the rules it is derived from (R25, R33, R35, R36, R121, R124, R140, R143, R173, R174, R183, R214): every
step keeps the invariant, from every state and whatever is pending. -/
def Obligations.StepKeepsTheInvariant : Prop :=
  ∀ s t : State, Inv s → step s = .next t → Inv t

/-- R45 (b) to (h), in the words of that rule, follow from the invariant. -/
def Obligations.InvariantGivesRule45 : Prop :=
  ∀ s : State, Inv s →
    (∀ a : FAxis, has (s.filt.get a) = true → ∀ i, has ((s.win.get a).get i) = true)
      ∧ has s.ref.x = has s.ref.y ∧ (has s.ref.x = true ↔ s.caln = 10)
      ∧ (s.phase = .calibrated ∨ s.phase = .running → s.caln = 10 ∧ has s.raw.x = true ∧ has s.raw.y = true)
      ∧ (s.phase = .halted ↔ s.fault ≠ .none) ∧ (s.fault ≠ .none ↔ s.stg = .halt)
      ∧ (s.stg.isRunning = true ↔ s.phase = .running)
      ∧ (s.stg.isAck = true → s.phase = .calibrated)
      ∧ (s.phase = .reset ∨ s.phase = .ready → s.stg = .off ∧ s.led = .off3 ∧ s.lvl = ⟨0, 0, 0, 0⟩)
      ∧ (s.stg.isTimed = true → 1 ≤ s.tmr.toNat ∧ s.tmr.toNat ≤ max 400 Config.tTick)
end

