-- ==== Sys2Proof/Laws/Decode.lean ====
section
/-! SUPPORT. The fields of a word made of fields, and the word of its own fields (R80). -/

namespace Sys2Proof

@[simp] theorem fieldOpc_wordOf (o : BitVec 4) (a : BitVec 2) (h l : Byte) : fieldOpc (wordOf o a h l) = o := by
  apply BitVec.eq_of_getElem_eq
  intro i hi
  simp [fieldOpc, wordOf]
  grind

@[simp] theorem fieldAx_wordOf (o : BitVec 4) (a : BitVec 2) (h l : Byte) : fieldAx (wordOf o a h l) = a := by
  apply BitVec.eq_of_getElem_eq
  intro i hi
  simp [fieldAx, wordOf]
  grind

@[simp] theorem fieldMbz_wordOf (o : BitVec 4) (a : BitVec 2) (h l : Byte) : fieldMbz (wordOf o a h l) = 0 := by
  apply BitVec.eq_of_getElem_eq
  intro i hi
  simp [fieldMbz, wordOf]
  grind

@[simp] theorem fieldHi_wordOf (o : BitVec 4) (a : BitVec 2) (h l : Byte) : fieldHi (wordOf o a h l) = h := by
  apply BitVec.eq_of_getElem_eq
  intro i hi
  simp [fieldHi, wordOf]
  grind

@[simp] theorem fieldLo_wordOf (o : BitVec 4) (a : BitVec 2) (h l : Byte) : fieldLo (wordOf o a h l) = l := by
  apply BitVec.eq_of_getElem_eq
  intro i hi
  simp [fieldLo, wordOf]
  grind

/-- A word is determined by its five fields. -/
theorem word_ext_fields {v w : Word} (ho : fieldOpc v = fieldOpc w) (ha : fieldAx v = fieldAx w)
    (hm : fieldMbz v = fieldMbz w) (hh : fieldHi v = fieldHi w) (hl : fieldLo v = fieldLo w) : v = w := by
  apply BitVec.eq_of_getLsbD_eq
  intro i hi
  have o := congrArg (fun x => x.getLsbD (i - 28)) ho
  have a := congrArg (fun x => x.getLsbD (i - 26)) ha
  have m := congrArg (fun x => x.getLsbD (i - 16)) hm
  have h := congrArg (fun x => x.getLsbD (i - 8)) hh
  have l := congrArg (fun x => x.getLsbD i) hl
  simp only [fieldOpc, fieldAx, fieldMbz, fieldHi, fieldLo, BitVec.getLsbD_extractLsb'] at o a m h l
  rcases Nat.lt_or_ge i 8 with h8 | h8
  · simpa [h8] using l
  rcases Nat.lt_or_ge i 16 with h16 | h16
  · simpa [show i - 8 < 8 by omega, show 8 + (i - 8) = i by omega] using h
  rcases Nat.lt_or_ge i 26 with h26 | h26
  · simpa [show i - 16 < 10 by omega, show 16 + (i - 16) = i by omega] using m
  rcases Nat.lt_or_ge i 28 with h28 | h28
  · simpa [show i - 26 < 2 by omega, show 26 + (i - 26) = i by omega] using a
  · simpa [show i - 28 < 4 by omega, show 28 + (i - 28) = i by omega] using o

/-- A word whose must-be-zero field is zero is the word of its fields. -/
theorem wordOf_fields {w : Word} (h : fieldMbz w = 0) :
    wordOf (fieldOpc w) (fieldAx w) (fieldHi w) (fieldLo w) = w :=
  word_ext_fields (by simp) (by simp) (by simp [h]) (by simp) (by simp)

@[simp] theorem axisOfField_axField (a : Axis) : axisOfField (axField a) = some a := by
  cases a <;> rfl

/-- An axis read from a field has that field. -/
theorem axField_of_axisOfField {x : BitVec 2} {a : Axis} (h : axisOfField x = some a) : axField a = x := by
  revert h
  unfold axisOfField
  split
  · rintro ⟨⟩; simp_all [axField]
  · split
    · rintro ⟨⟩; simp_all [axField]
    · split
      · rintro ⟨⟩; simp_all [axField]
      · rintro ⟨⟩

/-! ### Everything the decoder can accept (R85), a format at a time -/

theorem formatN_ok {i j : Instr} {w : Word} (h : formatN i w = .ok j) :
    j = i ∧ fieldAx w = 0 ∧ fieldHi w = 0 ∧ fieldLo w = 0 := by
  unfold formatN at h
  split at h
  · cases h
  split at h
  · cases h
  split at h
  · cases h
  cases h
  simp_all

theorem formatI_ok {f : Byte → Instr} {j : Instr} {w : Word} (h : formatI f w = .ok j) :
    j = f (fieldLo w) ∧ fieldAx w = 0 ∧ fieldHi w = 0 := by
  unfold formatI at h
  split at h
  · cases h
  split at h
  · cases h
  cases h
  simp_all

theorem formatA_ok {f : Axis → Instr} {j : Instr} {w : Word} (h : formatA f w = .ok j) :
    ∃ a, j = f a ∧ a.isFiltered = true ∧ fieldAx w = axField a ∧ fieldHi w = 0 ∧ fieldLo w = 0 := by
  unfold formatA at h
  split at h
  · cases h
  split at h
  · cases h
  split at h
  · cases h
    exact ⟨.X, rfl, rfl, by simp_all [axField]⟩
  split at h
  · cases h
    exact ⟨.Y, rfl, rfl, by simp_all [axField]⟩
  cases h

theorem formatB_ok {f : Axis → Byte → Byte → Instr} {j : Instr} {w : Word} (h : formatB f w = .ok j) :
    ∃ a, j = f a (fieldHi w) (fieldLo w) ∧ fieldAx w = axField a := by
  unfold formatB at h
  split at h
  · next a ha =>
    cases h
    exact ⟨a, rfl, (axField_of_axisOfField ha).symm⟩
  · cases h

/-- Everything the decoder can accept, with the fields of the word. -/
theorem decode_ok {w : Word} {i : Instr} (h : decode w = .ok i) :
    fieldMbz w = 0
      ∧ ((fieldOpc w = 0 ∧ formatN .nop w = .ok i) ∨ (fieldOpc w = 1 ∧ formatI .init w = .ok i)
        ∨ (fieldOpc w = 2 ∧ formatB .ldb w = .ok i) ∨ (fieldOpc w = 3 ∧ formatN .cal w = .ok i)
        ∨ (fieldOpc w = 4 ∧ formatA .push w = .ok i) ∨ (fieldOpc w = 5 ∧ formatN .adv w = .ok i)
        ∨ (fieldOpc w = 6 ∧ formatA .cls w = .ok i) ∨ (fieldOpc w = 7 ∧ formatN .start w = .ok i)) := by
  have key : ∀ n : Nat, (fieldOpc w).toNat = n → fieldOpc w = BitVec.ofNat 4 n := by
    rintro n rfl
    simp
  unfold decode at h
  split at h
  · cases h
  next hm =>
  simp only [ne_eq, Decidable.not_not] at hm
  refine ⟨hm, ?_⟩
  split at h
  · next ho => exact .inl ⟨key _ ho, h⟩
  · next ho => exact .inr (.inl ⟨key _ ho, h⟩)
  · next ho => exact .inr (.inr (.inl ⟨key _ ho, h⟩))
  · next ho => exact .inr (.inr (.inr (.inl ⟨key _ ho, h⟩)))
  · next ho => exact .inr (.inr (.inr (.inr (.inl ⟨key _ ho, h⟩))))
  · next ho => exact .inr (.inr (.inr (.inr (.inr (.inl ⟨key _ ho, h⟩)))))
  · next ho => exact .inr (.inr (.inr (.inr (.inr (.inr (.inl ⟨key _ ho, h⟩))))))
  · next ho => exact .inr (.inr (.inr (.inr (.inr (.inr (.inr ⟨key _ ho, h⟩))))))
  · cases h

end Sys2Proof
end

