-- ==== Sys2Proof/Laws/State.lean ====
section
/-! SUPPORT. One lemma per field per named update of the state, true by unfolding, so that no later proof unfolds an
update. -/

namespace Sys2Proof.Machine

/-! ### Fault entry (R214) -/

@[simp] theorem raise_raw (c : FaultCode) (w : Word) (s : State) : (raise c w s).raw = s.raw := rfl
@[simp] theorem raise_win (c : FaultCode) (w : Word) (s : State) : (raise c w s).win = s.win := rfl
@[simp] theorem raise_widx (c : FaultCode) (w : Word) (s : State) : (raise c w s).widx = s.widx := rfl
@[simp] theorem raise_filt (c : FaultCode) (w : Word) (s : State) : (raise c w s).filt = s.filt := rfl
@[simp] theorem raise_acc (c : FaultCode) (w : Word) (s : State) : (raise c w s).acc = s.acc := rfl
@[simp] theorem raise_caln (c : FaultCode) (w : Word) (s : State) : (raise c w s).caln = s.caln := rfl
@[simp] theorem raise_ref (c : FaultCode) (w : Word) (s : State) : (raise c w s).ref = s.ref := rfl
@[simp] theorem raise_lvl (c : FaultCode) (w : Word) (s : State) : (raise c w s).lvl = s.lvl := rfl
@[simp] theorem raise_phase (c : FaultCode) (w : Word) (s : State) : (raise c w s).phase = .halted := rfl
@[simp] theorem raise_fault (c : FaultCode) (w : Word) (s : State) : (raise c w s).fault = c := rfl
@[simp] theorem raise_fcmd (c : FaultCode) (w : Word) (s : State) : (raise c w s).fcmd = w := rfl
@[simp] theorem raise_snap (c : FaultCode) (w : Word) (s : State) : (raise c w s).snap = s.snap := rfl
@[simp] theorem raise_stg (c : FaultCode) (w : Word) (s : State) : (raise c w s).stg = .halt := rfl
@[simp] theorem raise_k (c : FaultCode) (w : Word) (s : State) : (raise c w s).k = 0 := rfl
@[simp] theorem raise_tmr (c : FaultCode) (w : Word) (s : State) : (raise c w s).tmr = 0 := rfl
@[simp] theorem raise_led (c : FaultCode) (w : Word) (s : State) : (raise c w s).led = .off3 := rfl
@[simp] theorem raise_env (c : FaultCode) (w : Word) (s : State) : (raise c w s).env = s.env := rfl

/-! ### Reset (R240) -/

@[simp] theorem resetEvent_raw (s : State) : (resetEvent s).raw = ⟨none, none, none⟩ := rfl
@[simp] theorem resetEvent_win (s : State) : (resetEvent s).win = ⟨.empty, .empty⟩ := rfl
@[simp] theorem resetEvent_widx (s : State) : (resetEvent s).widx = 0 := rfl
@[simp] theorem resetEvent_filt (s : State) : (resetEvent s).filt = ⟨none, none⟩ := rfl
@[simp] theorem resetEvent_acc (s : State) : (resetEvent s).acc = ⟨0, 0⟩ := rfl
@[simp] theorem resetEvent_caln (s : State) : (resetEvent s).caln = 0 := rfl
@[simp] theorem resetEvent_ref (s : State) : (resetEvent s).ref = ⟨none, none⟩ := rfl
@[simp] theorem resetEvent_lvl (s : State) : (resetEvent s).lvl = .zero := rfl
@[simp] theorem resetEvent_phase (s : State) : (resetEvent s).phase = .reset := rfl
@[simp] theorem resetEvent_fault (s : State) : (resetEvent s).fault = .none := rfl
@[simp] theorem resetEvent_fcmd (s : State) : (resetEvent s).fcmd = 0 := rfl
@[simp] theorem resetEvent_snap (s : State) : (resetEvent s).snap = .zero := rfl
@[simp] theorem resetEvent_stg (s : State) : (resetEvent s).stg = .off := rfl
@[simp] theorem resetEvent_k (s : State) : (resetEvent s).k = 0 := rfl
@[simp] theorem resetEvent_tmr (s : State) : (resetEvent s).tmr = 0 := rfl
@[simp] theorem resetEvent_led (s : State) : (resetEvent s).led = .off3 := rfl
@[simp] theorem resetEvent_env (s : State) : (resetEvent s).env = s.env := rfl

/-! ### Entering a stage (R173) -/

@[simp] theorem enter_raw (g : Stage) (k t : Nat) (s : State) : (enter g k t s).raw = s.raw := rfl
@[simp] theorem enter_win (g : Stage) (k t : Nat) (s : State) : (enter g k t s).win = s.win := rfl
@[simp] theorem enter_widx (g : Stage) (k t : Nat) (s : State) : (enter g k t s).widx = s.widx := rfl
@[simp] theorem enter_filt (g : Stage) (k t : Nat) (s : State) : (enter g k t s).filt = s.filt := rfl
@[simp] theorem enter_acc (g : Stage) (k t : Nat) (s : State) : (enter g k t s).acc = s.acc := rfl
@[simp] theorem enter_caln (g : Stage) (k t : Nat) (s : State) : (enter g k t s).caln = s.caln := rfl
@[simp] theorem enter_ref (g : Stage) (k t : Nat) (s : State) : (enter g k t s).ref = s.ref := rfl
@[simp] theorem enter_lvl (g : Stage) (k t : Nat) (s : State) : (enter g k t s).lvl = s.lvl := rfl
@[simp] theorem enter_phase (g : Stage) (k t : Nat) (s : State) : (enter g k t s).phase = s.phase := rfl
@[simp] theorem enter_fault (g : Stage) (k t : Nat) (s : State) : (enter g k t s).fault = s.fault := rfl
@[simp] theorem enter_fcmd (g : Stage) (k t : Nat) (s : State) : (enter g k t s).fcmd = s.fcmd := rfl
@[simp] theorem enter_snap (g : Stage) (k t : Nat) (s : State) : (enter g k t s).snap = s.snap := rfl
@[simp] theorem enter_stg (g : Stage) (k t : Nat) (s : State) : (enter g k t s).stg = g := rfl
@[simp] theorem enter_k (g : Stage) (k t : Nat) (s : State) : (enter g k t s).k = BitVec.ofNat 2 k := rfl
@[simp] theorem enter_tmr (g : Stage) (k t : Nat) (s : State) : (enter g k t s).tmr = BitVec.ofNat 16 t := rfl
@[simp] theorem enter_led (g : Stage) (k t : Nat) (s : State) : (enter g k t s).led = s.led := rfl
@[simp] theorem enter_env (g : Stage) (k t : Nat) (s : State) : (enter g k t s).env = s.env := rfl

/-! ### Entering a stage that names a value (R173) -/

@[simp] theorem enterLed_raw (g : Stage) (k t : Nat) (c : Rgb) (s : State) : (enterLed g k t c s).raw = s.raw := rfl
@[simp] theorem enterLed_win (g : Stage) (k t : Nat) (c : Rgb) (s : State) : (enterLed g k t c s).win = s.win := rfl
@[simp] theorem enterLed_widx (g : Stage) (k t : Nat) (c : Rgb) (s : State) : (enterLed g k t c s).widx = s.widx := rfl
@[simp] theorem enterLed_filt (g : Stage) (k t : Nat) (c : Rgb) (s : State) : (enterLed g k t c s).filt = s.filt := rfl
@[simp] theorem enterLed_acc (g : Stage) (k t : Nat) (c : Rgb) (s : State) : (enterLed g k t c s).acc = s.acc := rfl
@[simp] theorem enterLed_caln (g : Stage) (k t : Nat) (c : Rgb) (s : State) : (enterLed g k t c s).caln = s.caln := rfl
@[simp] theorem enterLed_ref (g : Stage) (k t : Nat) (c : Rgb) (s : State) : (enterLed g k t c s).ref = s.ref := rfl
@[simp] theorem enterLed_lvl (g : Stage) (k t : Nat) (c : Rgb) (s : State) : (enterLed g k t c s).lvl = s.lvl := rfl
@[simp] theorem enterLed_phase (g : Stage) (k t : Nat) (c : Rgb) (s : State) : (enterLed g k t c s).phase = s.phase := rfl
@[simp] theorem enterLed_fault (g : Stage) (k t : Nat) (c : Rgb) (s : State) : (enterLed g k t c s).fault = s.fault := rfl
@[simp] theorem enterLed_fcmd (g : Stage) (k t : Nat) (c : Rgb) (s : State) : (enterLed g k t c s).fcmd = s.fcmd := rfl
@[simp] theorem enterLed_snap (g : Stage) (k t : Nat) (c : Rgb) (s : State) : (enterLed g k t c s).snap = s.snap := rfl
@[simp] theorem enterLed_stg (g : Stage) (k t : Nat) (c : Rgb) (s : State) : (enterLed g k t c s).stg = g := rfl
@[simp] theorem enterLed_k (g : Stage) (k t : Nat) (c : Rgb) (s : State) : (enterLed g k t c s).k = BitVec.ofNat 2 k := rfl
@[simp] theorem enterLed_tmr (g : Stage) (k t : Nat) (c : Rgb) (s : State) : (enterLed g k t c s).tmr = BitVec.ofNat 16 t := rfl
@[simp] theorem enterLed_led (g : Stage) (k t : Nat) (c : Rgb) (s : State) : (enterLed g k t c s).led = c := rfl
@[simp] theorem enterLed_env (g : Stage) (k t : Nat) (c : Rgb) (s : State) : (enterLed g k t c s).env = s.env := rfl

/-! ### Entering a stage of the same round (R176) -/

@[simp] theorem enterSame_raw (g : Stage) (t : Nat) (c : Rgb) (s : State) : (enterSame g t c s).raw = s.raw := rfl
@[simp] theorem enterSame_win (g : Stage) (t : Nat) (c : Rgb) (s : State) : (enterSame g t c s).win = s.win := rfl
@[simp] theorem enterSame_widx (g : Stage) (t : Nat) (c : Rgb) (s : State) : (enterSame g t c s).widx = s.widx := rfl
@[simp] theorem enterSame_filt (g : Stage) (t : Nat) (c : Rgb) (s : State) : (enterSame g t c s).filt = s.filt := rfl
@[simp] theorem enterSame_acc (g : Stage) (t : Nat) (c : Rgb) (s : State) : (enterSame g t c s).acc = s.acc := rfl
@[simp] theorem enterSame_caln (g : Stage) (t : Nat) (c : Rgb) (s : State) : (enterSame g t c s).caln = s.caln := rfl
@[simp] theorem enterSame_ref (g : Stage) (t : Nat) (c : Rgb) (s : State) : (enterSame g t c s).ref = s.ref := rfl
@[simp] theorem enterSame_lvl (g : Stage) (t : Nat) (c : Rgb) (s : State) : (enterSame g t c s).lvl = s.lvl := rfl
@[simp] theorem enterSame_phase (g : Stage) (t : Nat) (c : Rgb) (s : State) : (enterSame g t c s).phase = s.phase := rfl
@[simp] theorem enterSame_fault (g : Stage) (t : Nat) (c : Rgb) (s : State) : (enterSame g t c s).fault = s.fault := rfl
@[simp] theorem enterSame_fcmd (g : Stage) (t : Nat) (c : Rgb) (s : State) : (enterSame g t c s).fcmd = s.fcmd := rfl
@[simp] theorem enterSame_snap (g : Stage) (t : Nat) (c : Rgb) (s : State) : (enterSame g t c s).snap = s.snap := rfl
@[simp] theorem enterSame_stg (g : Stage) (t : Nat) (c : Rgb) (s : State) : (enterSame g t c s).stg = g := rfl
@[simp] theorem enterSame_k (g : Stage) (t : Nat) (c : Rgb) (s : State) : (enterSame g t c s).k = s.k := rfl
@[simp] theorem enterSame_tmr (g : Stage) (t : Nat) (c : Rgb) (s : State) : (enterSame g t c s).tmr = BitVec.ofNat 16 t := rfl
@[simp] theorem enterSame_led (g : Stage) (t : Nat) (c : Rgb) (s : State) : (enterSame g t c s).led = c := rfl
@[simp] theorem enterSame_env (g : Stage) (t : Nat) (c : Rgb) (s : State) : (enterSame g t c s).env = s.env := rfl

/-! ### The snapshot (R172) -/

@[simp] theorem snapshot_raw (s : State) : (snapshot s).raw = s.raw := rfl
@[simp] theorem snapshot_win (s : State) : (snapshot s).win = s.win := rfl
@[simp] theorem snapshot_widx (s : State) : (snapshot s).widx = s.widx := rfl
@[simp] theorem snapshot_filt (s : State) : (snapshot s).filt = s.filt := rfl
@[simp] theorem snapshot_acc (s : State) : (snapshot s).acc = s.acc := rfl
@[simp] theorem snapshot_caln (s : State) : (snapshot s).caln = s.caln := rfl
@[simp] theorem snapshot_ref (s : State) : (snapshot s).ref = s.ref := rfl
@[simp] theorem snapshot_lvl (s : State) : (snapshot s).lvl = s.lvl := rfl
@[simp] theorem snapshot_phase (s : State) : (snapshot s).phase = s.phase := rfl
@[simp] theorem snapshot_fault (s : State) : (snapshot s).fault = s.fault := rfl
@[simp] theorem snapshot_fcmd (s : State) : (snapshot s).fcmd = s.fcmd := rfl
@[simp] theorem snapshot_snap (s : State) : (snapshot s).snap = s.lvl := rfl
@[simp] theorem snapshot_stg (s : State) : (snapshot s).stg = s.stg := rfl
@[simp] theorem snapshot_k (s : State) : (snapshot s).k = s.k := rfl
@[simp] theorem snapshot_tmr (s : State) : (snapshot s).tmr = s.tmr := rfl
@[simp] theorem snapshot_led (s : State) : (snapshot s).led = s.led := rfl
@[simp] theorem snapshot_env (s : State) : (snapshot s).env = s.env := rfl

/-! ### The pending events (R12) -/

@[simp] theorem withPending_raw (evs : List Event) (s : State) : (withPending evs s).raw = s.raw := rfl
@[simp] theorem withPending_win (evs : List Event) (s : State) : (withPending evs s).win = s.win := rfl
@[simp] theorem withPending_widx (evs : List Event) (s : State) : (withPending evs s).widx = s.widx := rfl
@[simp] theorem withPending_filt (evs : List Event) (s : State) : (withPending evs s).filt = s.filt := rfl
@[simp] theorem withPending_acc (evs : List Event) (s : State) : (withPending evs s).acc = s.acc := rfl
@[simp] theorem withPending_caln (evs : List Event) (s : State) : (withPending evs s).caln = s.caln := rfl
@[simp] theorem withPending_ref (evs : List Event) (s : State) : (withPending evs s).ref = s.ref := rfl
@[simp] theorem withPending_lvl (evs : List Event) (s : State) : (withPending evs s).lvl = s.lvl := rfl
@[simp] theorem withPending_phase (evs : List Event) (s : State) : (withPending evs s).phase = s.phase := rfl
@[simp] theorem withPending_fault (evs : List Event) (s : State) : (withPending evs s).fault = s.fault := rfl
@[simp] theorem withPending_fcmd (evs : List Event) (s : State) : (withPending evs s).fcmd = s.fcmd := rfl
@[simp] theorem withPending_snap (evs : List Event) (s : State) : (withPending evs s).snap = s.snap := rfl
@[simp] theorem withPending_stg (evs : List Event) (s : State) : (withPending evs s).stg = s.stg := rfl
@[simp] theorem withPending_k (evs : List Event) (s : State) : (withPending evs s).k = s.k := rfl
@[simp] theorem withPending_tmr (evs : List Event) (s : State) : (withPending evs s).tmr = s.tmr := rfl
@[simp] theorem withPending_led (evs : List Event) (s : State) : (withPending evs s).led = s.led := rfl
@[simp] theorem withPending_env (evs : List Event) (s : State) : (withPending evs s).env = { s.env with pending := evs } := rfl

/-! ### Presenting a command (R38) -/

@[simp] theorem present_raw (w : Word) (s : State) : (present w s).raw = s.raw := rfl
@[simp] theorem present_win (w : Word) (s : State) : (present w s).win = s.win := rfl
@[simp] theorem present_widx (w : Word) (s : State) : (present w s).widx = s.widx := rfl
@[simp] theorem present_filt (w : Word) (s : State) : (present w s).filt = s.filt := rfl
@[simp] theorem present_acc (w : Word) (s : State) : (present w s).acc = s.acc := rfl
@[simp] theorem present_caln (w : Word) (s : State) : (present w s).caln = s.caln := rfl
@[simp] theorem present_ref (w : Word) (s : State) : (present w s).ref = s.ref := rfl
@[simp] theorem present_lvl (w : Word) (s : State) : (present w s).lvl = s.lvl := rfl
@[simp] theorem present_phase (w : Word) (s : State) : (present w s).phase = s.phase := rfl
@[simp] theorem present_fault (w : Word) (s : State) : (present w s).fault = s.fault := rfl
@[simp] theorem present_fcmd (w : Word) (s : State) : (present w s).fcmd = s.fcmd := rfl
@[simp] theorem present_snap (w : Word) (s : State) : (present w s).snap = s.snap := rfl
@[simp] theorem present_stg (w : Word) (s : State) : (present w s).stg = s.stg := rfl
@[simp] theorem present_k (w : Word) (s : State) : (present w s).k = s.k := rfl
@[simp] theorem present_tmr (w : Word) (s : State) : (present w s).tmr = s.tmr := rfl
@[simp] theorem present_led (w : Word) (s : State) : (present w s).led = s.led := rfl
@[simp] theorem present_env (w : Word) (s : State) : (present w s).env = { s.env with pending := .cmd w :: s.env.pending } := rfl

/-! ### Reading (R41) -/

@[simp] theorem readEvent_raw (a : ReadAddr) (s : State) : (readEvent a s).raw = s.raw := rfl
@[simp] theorem readEvent_win (a : ReadAddr) (s : State) : (readEvent a s).win = s.win := rfl
@[simp] theorem readEvent_widx (a : ReadAddr) (s : State) : (readEvent a s).widx = s.widx := rfl
@[simp] theorem readEvent_filt (a : ReadAddr) (s : State) : (readEvent a s).filt = s.filt := rfl
@[simp] theorem readEvent_acc (a : ReadAddr) (s : State) : (readEvent a s).acc = s.acc := rfl
@[simp] theorem readEvent_caln (a : ReadAddr) (s : State) : (readEvent a s).caln = s.caln := rfl
@[simp] theorem readEvent_ref (a : ReadAddr) (s : State) : (readEvent a s).ref = s.ref := rfl
@[simp] theorem readEvent_lvl (a : ReadAddr) (s : State) : (readEvent a s).lvl = s.lvl := rfl
@[simp] theorem readEvent_phase (a : ReadAddr) (s : State) : (readEvent a s).phase = s.phase := rfl
@[simp] theorem readEvent_fault (a : ReadAddr) (s : State) : (readEvent a s).fault = s.fault := rfl
@[simp] theorem readEvent_fcmd (a : ReadAddr) (s : State) : (readEvent a s).fcmd = s.fcmd := rfl
@[simp] theorem readEvent_snap (a : ReadAddr) (s : State) : (readEvent a s).snap = s.snap := rfl
@[simp] theorem readEvent_stg (a : ReadAddr) (s : State) : (readEvent a s).stg = s.stg := rfl
@[simp] theorem readEvent_k (a : ReadAddr) (s : State) : (readEvent a s).k = s.k := rfl
@[simp] theorem readEvent_tmr (a : ReadAddr) (s : State) : (readEvent a s).tmr = s.tmr := rfl
@[simp] theorem readEvent_led (a : ReadAddr) (s : State) : (readEvent a s).led = s.led := rfl
@[simp] theorem readEvent_env (a : ReadAddr) (s : State) : (readEvent a s).env = { s.env with
    rdData := some (rdData a s)
    draws := if (readReg a s).isSome then s.env.draws else s.env.draws + 1 } := rfl

end Sys2Proof.Machine
end

