-- ==== Sys2Proof/Laws/Ops.lean ====
section
/-! SUPPORT. What the shared operations can do, once: axis-indexed access, window slots, and the checks every command
shares (R100). -/

namespace Sys2Proof.Machine

/-! ### Axis-indexed access -/

@[simp] theorem Xyz.get_set_self {α : Type} (v : Xyz α) (a : Axis) (e : α) : (v.set a e).get a = e := by
  cases a <;> rfl

theorem Xyz.get_set_other {α : Type} (v : Xyz α) {a b : Axis} (h : b ≠ a) (e : α) :
    (v.set a e).get b = v.get b := by
  cases a <;> cases b <;> first | rfl | exact absurd rfl h

@[simp] theorem Xy.get_set_self {α : Type} (v : Xy α) (a : FAxis) (e : α) : (v.set a e).get a = e := by
  cases a <;> rfl

theorem Xy.get_set_other {α : Type} (v : Xy α) {a b : FAxis} (h : b ≠ a) (e : α) :
    (v.set a e).get b = v.get b := by
  cases a <;> cases b <;> first | rfl | exact absurd rfl h

/-- Two pairs with the same components are the same. -/
theorem Xy.ext_get {α : Type} {v w : Xy α} (h : ∀ a, v.get a = w.get a) : v = w := by
  obtain ⟨vx, vy⟩ := v
  obtain ⟨wx, wy⟩ := w
  have hx := h .X
  have hy := h .Y
  simp only [Xy.get] at hx hy
  rw [hx, hy]

/-- A 2-bit index is one of four. -/
theorem index_cases (i : BitVec 2) : i = 0 ∨ i = 1 ∨ i = 2 ∨ i = 3 := by
  revert i
  decide

@[simp] theorem Window.get_set_self (w : Window) (i : BitVec 2) (e : Option Sample) : (w.set i e).get i = e := by
  rcases index_cases i with rfl | rfl | rfl | rfl <;> rfl

theorem Window.get_set_other (w : Window) {i j : BitVec 2} (h : j ≠ i) (e : Option Sample) :
    (w.set i e).get j = w.get j := by
  rcases index_cases i with rfl | rfl | rfl | rfl <;> rcases index_cases j with rfl | rfl | rfl | rfl <;>
    first | rfl | exact absurd rfl h

/-- The mean has a value exactly when every slot has one. -/
theorem Window.mean_eq_some {w : Window} {m : Sample} (h : w.mean = some m) :
    ∃ a b c d, w = ⟨some a, some b, some c, some d⟩
      ∧ m = BitVec.ofInt 16 (mean4 a.toInt b.toInt c.toInt d.toInt) := by
  obtain ⟨s0, s1, s2, s3⟩ := w
  cases s0 <;> cases s1 <;> cases s2 <;> cases s3 <;> simp [Window.mean] at h
  exact ⟨_, _, _, _, rfl, h.symm⟩

@[simp] theorem Window.mean_full (a b c d : Sample) :
    (Window.mean ⟨some a, some b, some c, some d⟩)
      = some (BitVec.ofInt 16 (mean4 a.toInt b.toInt c.toInt d.toInt)) := rfl

/-- Writing a value into a window without a mean never took a mean away. -/
theorem Window.mean_of_set_eq_none {w : Window} {i : BitVec 2} {v : Sample} (h : (w.set i (some v)).mean = none) :
    w.mean = none := by
  obtain ⟨s0, s1, s2, s3⟩ := w
  rcases index_cases i with rfl | rfl | rfl | rfl <;>
    cases s0 <;> cases s1 <;> cases s2 <;> cases s3 <;> simp [Window.mean, Window.set] at h ⊢

/-! ### The checks every command shares (R100) -/

/-- Everything a command under the checks can do. -/
theorem issue_cases (i : Instr) (rule : State → State) (s : State) :
    (s.phase = .halted ∧ issue i rule s = s)
      ∨ (s.phase ≠ .halted ∧ i.wellFormed = false ∧ issue i rule s = raise .illegalCommand (encode i) s)
      ∨ (s.phase ≠ .halted ∧ i.wellFormed = true ∧ legal i s.phase = false
          ∧ issue i rule s = raise .sequenceError (encode i) s)
      ∨ (s.phase ≠ .halted ∧ i.wellFormed = true ∧ legal i s.phase = true ∧ issue i rule s = rule s) := by
  unfold issue
  by_cases h : s.phase = .halted
  · exact .inl ⟨h, if_pos h⟩
  · by_cases hw : i.wellFormed = true <;> by_cases hl : legal i s.phase = true <;> simp [h, hw, hl]

/-- In `PH_HALTED` every command is discarded. -/
theorem issue_halted {i : Instr} {rule : State → State} {s : State} (h : s.phase = .halted) :
    issue i rule s = s := if_pos h

/-- No command is legal in `PH_HALTED`. -/
theorem not_halted_of_legal {i : Instr} {p : Phase} (h : legal i p = true) : p ≠ .halted := by
  rintro rfl
  cases i <;> simp [legal] at h

/-- A well-formed command in a phase that admits it runs its own rule. -/
theorem issue_legal {i : Instr} {rule : State → State} {s : State} (hw : i.wellFormed = true)
    (hl : legal i s.phase = true) : issue i rule s = rule s := by
  simp [issue, not_halted_of_legal hl, hw, hl]

/-- A well-formed command in a phase that does not admit it raises `SEQUENCE_ERROR`. -/
theorem issue_not_legal {i : Instr} {rule : State → State} {s : State} (hh : s.phase ≠ .halted)
    (hw : i.wellFormed = true) (hl : legal i s.phase = false) :
    issue i rule s = raise .sequenceError (encode i) s := by
  simp [issue, hh, hw, hl]

/-- A command on a filtered axis runs that axis's rule. -/
@[simp] theorem onFiltered_toAxis (i : Instr) (f : FAxis) (rule : FAxis → State → State) (s : State) :
    onFiltered i f.toAxis rule s = rule f s := by
  cases f <;> rfl

/-- The axis of a well-formed `PUSH` or `CLS` is a filtered one. -/
theorem eq_toAxis_of_isFiltered {a : Axis} (h : a.isFiltered = true) : ∃ f : FAxis, a = f.toAxis := by
  cases a
  · exact ⟨.X, rfl⟩
  · exact ⟨.Y, rfl⟩
  · simp [Axis.isFiltered] at h

/-- Different filtered axes are different axes. -/
theorem FAxis.toAxis_injective {f g : FAxis} (h : f.toAxis = g.toAxis) : f = g := by
  cases f <;> cases g <;> first | rfl | simp [FAxis.toAxis] at h

end Sys2Proof.Machine
end

