-- ==== Sys2Proof/Laws/PulseEngine.lean ====
section
/-! SUPPORT. What the pulse engine's operations can do, once. -/

namespace Sys2Proof.Machine

/-- The idle remainder by the two pulses (R171). -/
theorem roundIdle_eq (l : Levels) (k : Nat) :
    roundIdle l k = if xact l k then (if yact l k then 0 else 200) else (if yact l k then 200 else 400) := by
  unfold roundIdle
  cases xact l k <;> cases yact l k <;> rfl

/-- Everything a search within a round can find. -/
theorem seekRound_cases (k p : Nat) (s : State) :
    (p = 0 ∧ xact s.snap k = true ∧ seekRound k p s = some (enterLed .xp k Config.tPulse (xcol s.snap) s))
      ∨ (p ≤ 1 ∧ (p = 0 → xact s.snap k = false) ∧ yact s.snap k = true
          ∧ seekRound k p s = some (enterLed .yp k Config.tPulse (ycol s.snap) s))
      ∨ ((p = 0 → xact s.snap k = false) ∧ (p ≤ 1 → yact s.snap k = false) ∧ roundIdle s.snap k > 0
          ∧ seekRound k p s = some (enter .ri k (roundIdle s.snap k) s))
      ∨ (2 ≤ p ∧ xact s.snap k = true ∧ yact s.snap k = true ∧ seekRound k p s = none) := by
  unfold seekRound
  by_cases hp0 : p = 0 <;> by_cases hp1 : p ≤ 1 <;> cases hx : xact s.snap k <;> cases hy : yact s.snap k <;>
    simp_all [roundIdle_eq] <;> omega

/-- A search from the start of a round finds a stage of that round. -/
theorem seekRound_zero (k : Nat) (s : State) : ∃ t, seekRound k 0 s = some t := by
  rcases seekRound_cases k 0 s with h | h | h | h
  · exact ⟨_, h.2.2⟩
  · exact ⟨_, h.2.2.2⟩
  · exact ⟨_, h.2.2.2⟩
  · omega

/-- A snapshot that is not all zero has a pulse in round 1 (R173). -/
theorem pulse_in_round_one {l : Levels} (h : allZero l = false) : xact l 1 = true ∨ yact l 1 = true := by
  obtain ⟨px, nx, py, ny⟩ := l
  simp only [allZero, Bool.and_eq_false_iff, beq_eq_false_iff_ne, ne_eq, xact, yact, decide_eq_true_eq] at h ⊢
  simp only [← BitVec.toNat_inj, BitVec.ofNat_eq_ofNat, BitVec.toNat_ofNat] at h
  omega

/-- Everything the beginning of a cycle can do (R172). -/
theorem beginCycle_cases (s : State) :
    (allZero s.lvl = true ∧ beginCycle s = enterLed .zt 0 Config.tTick .off3 (snapshot s))
      ∨ (allZero s.lvl = false ∧ xact s.lvl 1 = true
          ∧ beginCycle s = enterLed .xp 1 Config.tPulse (xcol s.lvl) (snapshot s))
      ∨ (allZero s.lvl = false ∧ xact s.lvl 1 = false ∧ yact s.lvl 1 = true
          ∧ beginCycle s = enterLed .yp 1 Config.tPulse (ycol s.lvl) (snapshot s)) := by
  cases hz : allZero s.lvl
  · cases hx : xact s.lvl 1
    · have hy : yact s.lvl 1 = true := by
        rcases pulse_in_round_one hz with h | h
        · simp [hx] at h
        · exact h
      exact .inr (.inr ⟨rfl, rfl, hy, by simp [beginCycle, hz, seekRound, hx, hy]⟩)
    · exact .inr (.inl ⟨rfl, rfl, by simp [beginCycle, hz, seekRound, hx]⟩)
  · exact .inl ⟨rfl, by simp [beginCycle, hz]⟩

/-- Everything `pe_seek` can do: a stage of this round, the first stage of the next, or a new cycle (R173). -/
theorem seek_cases (k p : Nat) (s : State) :
    (∃ t, seekRound k p s = some t ∧ seek k p s = t)
      ∨ (seekRound k p s = none ∧ k < Config.nRounds ∧ ∃ t, seekRound (k + 1) 0 s = some t ∧ seek k p s = t)
      ∨ (seekRound k p s = none ∧ ¬k < Config.nRounds ∧ seek k p s = beginCycle s) := by
  unfold seek
  cases h : seekRound k p s with
  | some t => exact .inl ⟨t, rfl, rfl⟩
  | none =>
    by_cases hk : k < Config.nRounds
    · obtain ⟨t, ht⟩ := seekRound_zero (k + 1) s
      exact .inr (.inl ⟨rfl, hk, t, ht, by simp [hk, ht]⟩)
    · exact .inr (.inr ⟨rfl, hk, by simp [hk]⟩)

/-- Everything a tick can do: nothing, one tick counted, or the end of a stage (R176). -/
theorem tick_cases (s : State) :
    ((s.stg = .off ∨ s.stg = .halt) ∧ tick s = s)
      ∨ (s.stg ≠ .off ∧ s.stg ≠ .halt ∧ 1 < s.tmr.toNat ∧ tick s = { s with tmr := s.tmr - 1 })
      ∨ (s.stg ≠ .off ∧ s.stg ≠ .halt ∧ s.tmr.toNat ≤ 1 ∧ tick s = endStage s) := by
  unfold tick
  by_cases h : s.stg = .off ∨ s.stg = .halt
  · exact .inl ⟨h, if_pos h⟩
  · push Not at h
    by_cases ht : 1 < s.tmr.toNat
    · exact .inr (.inl ⟨h.1, h.2, ht, by simp [h.1, h.2, ht]⟩)
    · exact .inr (.inr ⟨h.1, h.2, by omega, by simp [h.1, h.2, ht]⟩)

/-! ### The engine neither reads nor writes the environment -/

/-- Searching a round commutes with replacing the environment. -/
theorem seekRound_withEnv (k p : Nat) (s : State) (e : Env) :
    seekRound k p { s with env := e } = (seekRound k p s).map fun t => { t with env := e } := by
  simp only [seekRound]
  split <;> [rfl; split <;> [rfl; split <;> rfl]]

/-- Beginning a cycle commutes with replacing the environment. -/
theorem beginCycle_withEnv (s : State) (e : Env) :
    beginCycle { s with env := e } = { beginCycle s with env := e } := by
  rcases beginCycle_cases s with ⟨hz, h⟩ | ⟨hz, hx, h⟩ | ⟨hz, hx, hy, h⟩ <;>
    rw [h] <;> simp [beginCycle, seekRound, snapshot, enterLed, enter, *]

/-- Searching commutes with replacing the environment. -/
theorem seek_withEnv (k p : Nat) (s : State) (e : Env) :
    seek k p { s with env := e } = { seek k p s with env := e } := by
  rcases seek_cases k p s with ⟨t, ht, h⟩ | ⟨hn, hk, t, ht, h⟩ | ⟨hn, hk, h⟩ <;>
    simp [seek, seekRound_withEnv, beginCycle_withEnv, *]

/-- A tick commutes with replacing the environment. -/
theorem tick_withEnv (s : State) (e : Env) : tick { s with env := e } = { tick s with env := e } := by
  simp only [tick, endStage]
  split
  · rfl
  · split
    · rfl
    · split <;> first | rfl | exact seek_withEnv .. | exact beginCycle_withEnv .. | skip
      split
      · exact seek_withEnv ..
      · exact beginCycle_withEnv ..

/-- A tick leaves the environment. -/
@[simp] theorem tick_env (s : State) : (tick s).env = s.env := by
  have h : tick s = { tick s with env := s.env } := tick_withEnv s s.env
  rw [h]

@[simp] theorem ticks_zero (s : State) : ticks 0 s = s := rfl
@[simp] theorem ticks_succ (n : Nat) (s : State) : ticks (n + 1) s = ticks n (tick s) := rfl

/-- Ticks add up. -/
theorem ticks_add (m n : Nat) (s : State) : ticks (m + n) s = ticks n (ticks m s) := by
  induction m generalizing s with
  | zero => simp
  | succ m ih => rw [Nat.succ_add]; exact ih (tick s)

end Sys2Proof.Machine
end

