-- ==== Sys2Proof/Laws/Exec.lean ====
section
/-! SUPPORT. Every command under the shared checks, and everything a step can do, once. -/

namespace Sys2Proof.Machine

/-- The own rule of each command, which the shared checks of R100 guard. -/
def ruleOf : Instr → State → State
  | .nop => nopRule
  | .init id => initRule id
  | .ldb a hi lo => ldbRule a hi lo
  | .cal => calRule
  | .push a => onFiltered (.push a) a pushRule
  | .adv => advRule
  | .cls a => onFiltered (.cls a) a clsRule
  | .start => startRule

/-- Every command is its own rule under the shared checks, and always answers a next state. -/
theorem exec_eq (i : Instr) (s : State) : exec i s = .next (issue i (ruleOf i) s) := by
  cases i <;> rfl

/-- Everything a command that answers `next t` can have done (R100). -/
theorem exec_cases {i : Instr} {s t : State} (h : exec i s = .next t) :
    (s.phase = .halted ∧ t = s)
      ∨ (s.phase ≠ .halted ∧ i.wellFormed = false ∧ t = raise .illegalCommand (encode i) s)
      ∨ (s.phase ≠ .halted ∧ i.wellFormed = true ∧ legal i s.phase = false
          ∧ t = raise .sequenceError (encode i) s)
      ∨ (s.phase ≠ .halted ∧ i.wellFormed = true ∧ legal i s.phase = true ∧ t = ruleOf i s) := by
  rw [exec_eq] at h
  cases h
  exact issue_cases i (ruleOf i) s

/-- A well-formed command in a phase that admits it answers the state of its own rule. -/
theorem exec_legal {i : Instr} {s : State} (hw : i.wellFormed = true) (hl : legal i s.phase = true) :
    exec i s = .next (ruleOf i s) := by
  rw [exec_eq, issue_legal hw hl]

/-! ### The own rules, case by case -/

/-- Everything `INIT` can do (R102). -/
theorem initRule_cases (id : Byte) (s : State) :
    (id = Config.deviceId ∧ initRule id s = { s with phase := .ready })
      ∨ (id ≠ Config.deviceId ∧ initRule id s = raise .identityMismatch (encode (.init id)) s) := by
  unfold initRule
  by_cases h : id = Config.deviceId <;> simp [h]

/-- Everything `CAL` can do (R140). -/
theorem calRule_cases (s : State) :
    ((s.raw.x = none ∨ s.raw.y = none) ∧ calRule s = raise .noValue (encode .cal) s)
      ∨ ∃ rx ry, s.raw.x = some rx ∧ s.raw.y = some ry
        ∧ ((s.caln.toNat + 1 ≠ Config.calN ∧ calRule s = { s with
              acc := ⟨BitVec.ofInt 18 (s.acc.x.toInt + rx.toInt), BitVec.ofInt 18 (s.acc.y.toInt + ry.toInt)⟩
              caln := BitVec.ofNat 4 (s.caln.toNat + 1) })
          ∨ (s.caln.toNat + 1 = Config.calN ∧ calRule s = ackStart { s with
              acc := ⟨BitVec.ofInt 18 (s.acc.x.toInt + rx.toInt), BitVec.ofInt 18 (s.acc.y.toInt + ry.toInt)⟩
              caln := BitVec.ofNat 4 (s.caln.toNat + 1)
              ref := ⟨some (meanOfSum (s.acc.x.toInt + rx.toInt)), some (meanOfSum (s.acc.y.toInt + ry.toInt))⟩
              phase := .calibrated })) := by
  unfold calRule
  cases hx : s.raw.x with
  | none => exact .inl ⟨.inl rfl, rfl⟩
  | some rx =>
    cases hy : s.raw.y with
    | none => exact .inl ⟨.inr rfl, rfl⟩
    | some ry =>
      refine .inr ⟨rx, ry, rfl, rfl, ?_⟩
      by_cases hn : s.caln.toNat + 1 = Config.calN
      · exact .inr ⟨hn, by simp [hn, finishCalibration]⟩
      · exact .inl ⟨hn, by simp [hn]⟩

/-- Everything `PUSH` can do (R121). -/
theorem pushRule_cases (a : FAxis) (s : State) :
    (s.raw.get a.toAxis = none ∧ pushRule a s = raise .noValue (encode (.push a.toAxis)) s)
      ∨ ∃ v, s.raw.get a.toAxis = some v
        ∧ ((((s.win.get a).set s.widx (some v)).mean = none
            ∧ pushRule a s = { s with win := s.win.set a ((s.win.get a).set s.widx (some v)) })
          ∨ ∃ m, ((s.win.get a).set s.widx (some v)).mean = some m
            ∧ pushRule a s = { s with
                win := s.win.set a ((s.win.get a).set s.widx (some v))
                filt := s.filt.set a (some m) }) := by
  unfold pushRule
  cases hv : s.raw.get a.toAxis with
  | none => exact .inl ⟨rfl, rfl⟩
  | some v =>
    refine .inr ⟨v, rfl, ?_⟩
    cases hm : ((s.win.get a).set s.widx (some v)).mean with
    | none => exact .inl ⟨rfl, by simp [refilter, hm]⟩
    | some m => exact .inr ⟨m, rfl, by simp [refilter, hm]⟩

/-- Everything `CLS` can do (R153). -/
theorem clsRule_cases (a : FAxis) (s : State) :
    ((s.filt.get a = none ∨ s.ref.get a = none) ∧ clsRule a s = raise .noValue (encode (.cls a.toAxis)) s)
      ∨ ∃ c r, s.filt.get a = some c ∧ s.ref.get a = some r
        ∧ clsRule a s = { s with
            lvl := s.lvl.setPair a (classify c.toInt r.toInt (s.lvl.pos a) (s.lvl.neg a)) } := by
  unfold clsRule
  cases hc : s.filt.get a with
  | none => exact .inl ⟨.inl rfl, rfl⟩
  | some c =>
    cases hr : s.ref.get a with
    | none => exact .inl ⟨.inr rfl, rfl⟩
    | some r => exact .inr ⟨c, r, rfl, rfl, rfl⟩

/-! ### Events and steps -/

/-- While the port is not ready no command is taken (R38, R68 (a)). -/
theorem takeEvent_not_ready_ne_cmd {evs rest : List Event} {w : Word} :
    takeEvent false evs ≠ some (.cmd w, rest) := by
  induction evs generalizing rest with
  | nil => simp [takeEvent]
  | cons e es ih =>
    cases e with
    | cmd v =>
      simp only [takeEvent, Bool.false_eq_true, if_false, ne_eq, Option.map_eq_some_iff, Prod.mk.injEq, not_exists]
      rintro ⟨e', r'⟩ ⟨h1, h2, _⟩
      simp only at h2
      subst h2
      exact ih h1
    | reset => simp [takeEvent]
    | tick => simp [takeEvent]
    | read a => simp [takeEvent]

/-- A ready port takes the first pending event, whatever it is. -/
theorem takeEvent_ready (e : Event) (es : List Event) : takeEvent true (e :: es) = some (e, es) := by
  cases e <;> rfl

/-- A port that is not ready takes the first pending event that is no command, and leaves the commands before it. -/
theorem takeEvent_not_ready (ws : List Word) {e : Event} (he : ∀ v, e ≠ .cmd v) (later : List Event) :
    takeEvent false (ws.map .cmd ++ e :: later) = some (e, ws.map .cmd ++ later) := by
  induction ws with
  | nil => cases e <;> first | rfl | exact absurd rfl (he _)
  | cons w ws ih => simp [takeEvent, ih]

/-- A port that is not ready takes nothing where only commands are pending. -/
theorem takeEvent_not_ready_cmds (ws : List Word) : takeEvent false (ws.map .cmd) = none := by
  induction ws with
  | nil => rfl
  | cons w ws ih => simp [takeEvent, ih]

/-- Everything a step can do: the block waits, or one event occurs, a command only when the port is ready. -/
theorem step_cases {s t : State} (h : step s = .next t) :
    (takeEvent (cmdReady s) s.env.pending = none ∧ t = s)
      ∨ ∃ e rest, takeEvent (cmdReady s) s.env.pending = some (e, rest)
        ∧ (∀ w, e = .cmd w → cmdReady s = true)
        ∧ runEvent e (withPending rest s) = .next t := by
  unfold step nextStep at h
  cases he : takeEvent (cmdReady s) s.env.pending with
  | none => rw [he] at h; cases h; exact .inl ⟨rfl, rfl⟩
  | some p =>
    obtain ⟨e, rest⟩ := p
    rw [he] at h
    refine .inr ⟨e, rest, rfl, ?_, h⟩
    rintro w rfl
    cases hr : cmdReady s with
    | true => rfl
    | false => rw [hr] at he; exact absurd he takeEvent_not_ready_ne_cmd

/-- Everything a command word can do (R100). -/
theorem cmdEvent_cases {w : Word} {s t : State} (h : cmdEvent w s = .next t) :
    (∃ i, decode w = .ok i ∧ exec i s = .next t)
      ∨ (∃ r, decode w = .error r ∧ s.phase = .halted ∧ t = s)
      ∨ ∃ r, decode w = .error r ∧ s.phase ≠ .halted ∧ t = raise .illegalCommand w s := by
  unfold cmdEvent at h
  cases hd : decode w with
  | ok i => rw [hd] at h; exact .inl ⟨i, rfl, h⟩
  | error r =>
    rw [hd] at h
    cases h
    by_cases hh : s.phase = .halted
    · exact .inr (.inl ⟨r, rfl, hh, by simp [illegal, hh]⟩)
    · exact .inr (.inr ⟨r, rfl, hh, by simp [illegal, hh]⟩)

/-- Every event answers a next state. -/
theorem runEvent_next (e : Event) (s : State) : ∃ t, runEvent e s = .next t := by
  cases e with
  | reset => exact ⟨_, rfl⟩
  | tick => exact ⟨_, rfl⟩
  | read a => exact ⟨_, rfl⟩
  | cmd w =>
    cases hd : decode w with
    | ok i => exact ⟨issue i (ruleOf i) s, by simp [runEvent, cmdEvent, hd, exec_eq]⟩
    | error r => exact ⟨illegal w s, by simp [runEvent, cmdEvent, hd]⟩

end Sys2Proof.Machine
end

