-- ==== Sys2Proof/Laws/Operands.lean ====
section
/-! SUPPORT. Ranges of the arithmetic of the rules, and what narrowing to a register's width keeps. -/

namespace Sys2Proof.Machine

/-- The two parts of the sample field have no bit in common, so `|` is `+` (R103). -/
theorem sampleField_eq (hi lo : Byte) : sampleField hi lo = hi.toNat * 64 + lo.toNat / 4 := by
  have h : lo.toNat / 4 < 2 ^ 6 := by have := lo.isLt; omega
  rw [sampleField, Nat.shiftRight_eq_div_pow, Nat.shiftLeft_eq]
  have := Nat.two_pow_add_eq_or_of_lt h hi.toNat
  rw [Nat.mul_comm] at this
  simpa using this.symm

/-- The sample field has 14 bits (R103). -/
theorem sampleField_lt (hi lo : Byte) : sampleField hi lo < 16384 := by
  rw [sampleField_eq]
  have := hi.isLt
  have := lo.isLt
  omega

/-- A value of the 16-bit range survives the narrowing to 16 bits. -/
theorem toInt_ofInt_sample {v : Int} (h1 : -32768 ≤ v) (h2 : v ≤ 32767) : (BitVec.ofInt 16 v).toInt = v := by
  rw [BitVec.toInt_ofInt, Int.bmod_def]
  omega

/-- A value of the 18-bit range survives the narrowing to 18 bits. -/
theorem toInt_ofInt_acc {v : Int} (h1 : -131072 ≤ v) (h2 : v ≤ 131071) : (BitVec.ofInt 18 v).toInt = v := by
  rw [BitVec.toInt_ofInt, Int.bmod_def]
  omega

/-- `tdiv` by a positive number as a case on the sign (R10). -/
theorem tdiv_eq (a b : Int) : tdiv a b = if 0 ≤ a then a / b else -(-a / b) := by
  unfold tdiv
  split
  · next h => exact Int.tdiv_eq_ediv_of_nonneg h
  · next h =>
    have h' : 0 ≤ -a := by omega
    rw [← Int.tdiv_eq_ediv_of_nonneg h', Int.neg_tdiv, Int.neg_neg]

/-- A truncated mean of `n` values stays within their bounds (R124, R143). -/
theorem tdiv_bounds {a lo hi n : Int} (hn : 0 < n) (hlo : lo ≤ 0) (hhi : 0 ≤ hi) (h1 : lo * n ≤ a) (h2 : a ≤ hi * n) :
    lo ≤ tdiv a n ∧ tdiv a n ≤ hi := by
  rw [tdiv_eq]
  split
  · next h =>
    have h3 : a / n ≤ hi := Int.ediv_le_of_le_mul hn h2
    have h4 : 0 ≤ a / n := Int.ediv_nonneg h hn.le
    omega
  · next h =>
    have h3 : -a / n ≤ -lo := Int.ediv_le_of_le_mul hn (by rw [Int.neg_mul]; omega)
    have h4 : 0 ≤ -a / n := Int.ediv_nonneg (by omega) hn.le
    omega

end Sys2Proof.Machine
end

