-- ==== Sys2Proof/Laws/PerInstr.lean ====
section
/-! SUPPORT. Per-command lemmas about the encoding (spec/30_encoding.md R80, R83): the must-be-zero field of every
command's word is zero and its opcode is one of the eight. -/

namespace Sys2Proof.Laws.EncodedFields

/-- `MBZ = 0` and the opcode below 8. -/
def Statement (i : Instr) : Prop := fieldMbz (encode i) = 0 ∧ (fieldOpc (encode i)).toNat < 8

theorem nop : Statement .nop := by simp [Statement, encode]
theorem init (id : Byte) : Statement (.init id) := by simp [Statement, encode]
theorem ldb (a : Axis) (hi lo : Byte) : Statement (.ldb a hi lo) := by simp [Statement, encode]
theorem cal : Statement .cal := by simp [Statement, encode]
theorem push (a : Axis) : Statement (.push a) := by simp [Statement, encode]
theorem adv : Statement .adv := by simp [Statement, encode]
theorem cls (a : Axis) : Statement (.cls a) := by simp [Statement, encode]
theorem start : Statement .start := by simp [Statement, encode]

end Sys2Proof.Laws.EncodedFields
end

