-- ==== Sys2Proof/Tests/Slice0.lean ====
section
/-! SUPPORT. Tests: ill-formed terms, decoding of words written out from spec/30_encoding.md, vectors of
spec/95_test_vectors.md, and for each obligation with hypotheses a state and operands that meet them. -/

namespace Sys2Proof.Machine

/-! ### Small states -/

/-- The register holds `v`. -/
def holds (v : Int) : Option Sample := some (BitVec.ofInt 16 v)

/-- The next state of an outcome. -/
def nextOf : Host.Outcome State Fault Refusal → Option State
  | .next t => some t
  | .fault _ => none
  | .refused _ => none

/-- `PH_READY` after the identity check. -/
def stReady : State := { State.reset with phase := .ready }

/-- `PH_READY` with nine samples summed (vector 2.5, second row). -/
def stNine : State :=
  { stReady with raw := ⟨holds 100, holds (-4), none⟩, acc := ⟨900, BitVec.ofInt 18 (-95)⟩, caln := 9 }

/-- `PH_CALIBRATED` after the acknowledgement, `REF` = (100, -37), windows empty. -/
def stCalibrated : State :=
  { State.reset with
    phase := .calibrated, raw := ⟨holds 100, holds (-37), holds 0⟩, caln := 10
    acc := ⟨1000, BitVec.ofInt 18 (-370)⟩, ref := ⟨holds 100, holds (-37)⟩ }

/-- The last tick of the acknowledgement. -/
def stAck : State := { stCalibrated with stg := .ackOff2, tmr := 1 }

/-- `PH_RUNNING`, the last tick of a cycle with one X pulse, new levels (2, 0, 0, 1). -/
def stRunning : State :=
  { stCalibrated with
    phase := .running
    win := ⟨⟨holds 2500, holds 2500, holds 2500, holds 2500⟩, ⟨holds (-600), holds (-600), holds (-600), holds (-600)⟩⟩
    filt := ⟨holds 2500, holds (-600)⟩
    lvl := ⟨2, 0, 0, 1⟩, snap := ⟨1, 0, 0, 0⟩, stg := .ri, k := 3, tmr := 1, led := .on3 }

/-- `PH_RUNNING` in a stage of round `k` with `n` ticks to go. -/
def stStage (g : Stage) (l : Levels) (k : BitVec 2) (n : BitVec 16) (c : Rgb) : State :=
  { stRunning with stg := g, snap := l, k := k, tmr := n, led := c }

/-- The halted state of an eleventh `CAL`. -/
def stHalted : State := raise .sequenceError 0x30000000 stCalibrated

/-! ### Ill-formed terms -/

theorem test_push_z_is_ill_formed : (Instr.push .Z).wellFormed = false := by decide
theorem test_cls_z_is_ill_formed : (Instr.cls .Z).wellFormed = false := by decide
theorem test_ldb_z_is_well_formed : (Instr.ldb .Z 0xFF 0xFF).wellFormed = true := by decide

/-! ### Decoding (R80 to R85, R87; vectors 2.1), words written out field by field: OPC AX MBZ HI LO -/

theorem test_decode_nop : decode 0b0000_00_0000000000_00000000_00000000 = .ok .nop := by decide
theorem test_decode_init : decode 0b0001_00_0000000000_00000000_00011010 = .ok (.init 0x1A) := by decide
theorem test_decode_ldb : decode 0b0010_01_0000000000_00010010_00110100 = .ok (.ldb .Y 0x12 0x34) := by decide
theorem test_decode_ldb_low_bits : decode 0b0010_10_0000000000_11111111_11111111 = .ok (.ldb .Z 0xFF 0xFF) := by decide
theorem test_decode_cal : decode 0b0011_00_0000000000_00000000_00000000 = .ok .cal := by decide
theorem test_decode_push : decode 0b0100_01_0000000000_00000000_00000000 = .ok (.push .Y) := by decide
theorem test_decode_adv : decode 0b0101_00_0000000000_00000000_00000000 = .ok .adv := by decide
theorem test_decode_cls : decode 0b0110_01_0000000000_00000000_00000000 = .ok (.cls .Y) := by decide
theorem test_decode_start : decode 0b0111_00_0000000000_00000000_00000000 = .ok .start := by decide

theorem test_decode_reserved_opcode : decode 0x80000000 = .error .reservedOpcode := by decide
theorem test_decode_mbz : decode 0x20011234 = .error .mbzNotZero := by decide
theorem test_decode_nop_lo : decode 0x00000001 = .error .loNotZero := by decide
theorem test_decode_init_hi : decode 0x10000100 = .error .hiNotZero := by decide
theorem test_decode_init_ax : decode 0x14000000 = .error .axNotZero := by decide
theorem test_decode_ldb_ax : decode 0x2C000000 = .error .axOutOfRange := by decide
theorem test_decode_push_z : decode 0x48000000 = .error .axOutOfRange := by decide
theorem test_decode_cls_ax : decode 0x6C000000 = .error .axOutOfRange := by decide
theorem test_decode_start_ax : decode 0x74000000 = .error .axNotZero := by decide

/-- The host's entry reads the same words. -/
theorem test_decode_table_word : decodeTableWord 32 0x24001234 = some (.ldb .Y 0x12 0x34) := by decide

/-! ### Commands, one step each (vectors 2.2 to 2.8) -/

/-- A word presented at reset is the next thing the machine runs. -/
theorem test_fetch_word : step (State.reset.withFetchWord 32 0) = exec .nop State.reset := by rfl

theorem test_nop : exec .nop stNine = .next stNine := by rfl

/-- R102: the expected byte arms the block. -/
theorem test_init_match : exec (.init Config.deviceId) State.reset = .next stReady := by
  show Host.Outcome.next (initRule Config.deviceId State.reset) = _
  rw [initRule, if_pos rfl]
  rfl

/-- Vector 2.8: `INIT 0x1B` in `PH_READY` is fault 3, before any look at the byte. -/
theorem test_init_second : (nextOf (exec (.init 0x1B) stReady)).map (fun t => (t.fault, t.fcmd, t.phase))
    = some (.sequenceError, 0x1000001B, .halted) := by decide

/-- Vector 2.2: `LDB X, #-1` overwrites 100. -/
theorem test_ldb_overwrites : (nextOf (cmdEvent 0x2000FFFC stNine)).map (·.raw)
    = some ⟨holds (-1), holds (-4), none⟩ := by decide

/-- Vector 2.8: `LDB X, #100` in the reset state. -/
theorem test_ldb_too_early : (nextOf (cmdEvent 0x20000190 State.reset)).map (fun t => (t.fault, t.fcmd, t.raw))
    = some (.sequenceError, 0x20000190, ⟨none, none, none⟩) := by decide

/-- Vector 2.5: the tenth `CAL`; `RAW[Z]` is not needed; -99 divides to -9. -/
theorem test_cal_tenth : nextOf (exec .cal stNine) = some { stNine with
    acc := ⟨1000, BitVec.ofInt 18 (-99)⟩, caln := 10, ref := ⟨holds 100, holds (-9)⟩
    phase := .calibrated, stg := .ackOn1, tmr := 200, led := .on3 } := by decide

/-- Vector 2.5: `CAL` with `RAW[Y]` not loaded. -/
theorem test_cal_no_value :
    (nextOf (exec .cal { stReady with raw := ⟨holds 5, none, none⟩ })).map (fun t => (t.fault, t.fcmd, t.acc, t.caln))
      = some (.noValue, 0x30000000, ⟨0, 0⟩, 0) := by decide

/-- Vector 2.4, first row. -/
theorem test_push_x :
    (nextOf (exec (.push .X) { stCalibrated with
      widx := 1, raw := ⟨holds (-63), none, none⟩
      win := ⟨⟨holds 10, holds 20, holds 30, holds 40⟩, .empty⟩ })).map (fun t => (t.win.x, t.filt, t.widx))
      = some (⟨holds 10, holds (-63), holds 30, holds 40⟩, ⟨holds 4, none⟩, 1) := by decide

/-- Vector 2.4, sixth row: the sum -2 has the mean 0. -/
theorem test_push_y :
    (nextOf (exec (.push .Y) { stCalibrated with
      widx := 3, raw := ⟨holds 7, holds (-8), none⟩
      win := ⟨.empty, ⟨holds 1, holds 2, holds 3, none⟩⟩ })).map (fun t => (t.win.y.slot3, t.filt, t.win.x))
      = some (holds (-8), ⟨none, holds 0⟩, .empty) := by decide

theorem test_adv_wraps : (nextOf (exec .adv { stCalibrated with widx := 3 })).map (·.widx) = some 0 := by decide

/-- Vector 2.6: `CLS X` in the negative zone keeps `POS[X]` and the Y pair. -/
theorem test_cls_negative :
    (nextOf (exec (.cls .X) { stRunning with filt := ⟨holds (-500), holds 0⟩, lvl := ⟨2, 0, 1, 0⟩ })).map (·.lvl)
      = some ⟨2, 1, 1, 0⟩ := by decide

/-- Vector 2.8: `CLS X` without pre-fill. -/
theorem test_cls_no_value :
    (nextOf (exec (.cls .X) { stRunning with filt := ⟨none, none⟩ })).map (fun t => (t.fault, t.fcmd, t.stg, t.lvl))
      = some (.noValue, 0x60000000, .halt, ⟨2, 0, 0, 1⟩) := by decide

/-- R174: the first cycle is the all-off hold. -/
theorem test_start_first_cycle :
    (nextOf (exec .start stCalibrated)).map (fun t => (t.phase, t.snap, t.stg, t.k, t.led))
      = some (.running, ⟨0, 0, 0, 0⟩, .zt, 0, .off3) := by rfl

/-- Vector 2.8: a second `START`. -/
theorem test_start_second :
    nextOf (exec .start (stStage .xn ⟨3, 0, 0, 0⟩ 1 50 .on3)) = some
      { stStage .halt ⟨3, 0, 0, 0⟩ 0 0 .off3 with
        phase := .halted, fault := .sequenceError, fcmd := 0x70000000 } := by decide

/-! ### Tick, Read and Reset (vectors 2.7 and 2.9) -/

/-- Vector 2.7: `YN` of a round without idle goes to round 2, where only Y is active. -/
theorem test_tick_no_idle :
    ((fun t => (t.stg, t.k, t.tmr, t.led)) (tick (stStage .yn ⟨1, 0, 0, 2⟩ 1 1 .on3)))
      = (.yp, 2, 100, ⟨true, true, false⟩) := by decide

/-- Vector 2.7: a round without a pulse is idle for its whole budget. -/
theorem test_tick_idle_round :
    ((fun t => (t.stg, t.k, t.tmr, t.led)) (tick (stStage .ri ⟨1, 0, 0, 0⟩ 1 1 .on3))) = (.ri, 2, 400, .on3) := by decide

/-- R172: the tick that ends a cycle takes the new levels. -/
theorem test_tick_new_cycle :
    ((fun t => (t.stg, t.k, t.tmr, t.led, t.snap)) (tick stRunning))
      = (.xp, 1, 100, ⟨false, false, true⟩, ⟨2, 0, 0, 1⟩) := by decide

/-- Vector 2.9: `STATUS` and `PER` after the tenth `CAL`. -/
theorem test_read_status :
    (nextOf (exec .cal { stNine with raw := ⟨holds 100, holds (-4), holds 4096⟩ })).map
        (fun t => (readReg 0x00 t, readReg 0x05 t))
      = some (some 0x015F000A, some 0x00C801C1) := by decide

/-- Vector 2.9: sign-extended data, levels, a reserved address, and a register without a value. -/
theorem test_read_data :
    (readReg 0x0A stRunning, readReg 0x03 stRunning, readReg 0x1F stRunning, readReg 0x10 stCalibrated)
      = (some 0xFFFFFDA8, some 0x00000042, some 0, none) := by decide

theorem test_reset_leaves_halt : runEvent .reset stHalted = .next State.reset := by rfl

/-- R88: `LDB X, #2500`. -/
theorem test_literal : ldbLiteral .X 2500 = some (.ldb .X 0x27 0x10) := by decide

/-! ### States that meet the invariant -/

/-- The register holds no value or a legal sample. -/
def okReg : Option Sample → Bool
  | none => true
  | some v => decide (Config.sampleMin ≤ v.toInt ∧ v.toInt ≤ Config.sampleMax)

/-- Every slot does. -/
def okWindow (w : Window) : Bool := okReg w.slot0 && okReg w.slot1 && okReg w.slot2 && okReg w.slot3

/-- What of the invariant a computation settles. -/
def checks (s : State) : Bool :=
  okReg s.raw.x && okReg s.raw.y && okReg s.raw.z && okWindow s.win.x && okWindow s.win.y
    && okReg s.filt.x && okReg s.filt.y && okReg s.ref.x && okReg s.ref.y
    && decide (-8192 * (s.caln.toNat : Int) ≤ s.acc.x.toInt ∧ s.acc.x.toInt ≤ 8191 * (s.caln.toNat : Int)
      ∧ -8192 * (s.caln.toNat : Int) ≤ s.acc.y.toInt ∧ s.acc.y.toInt ≤ 8191 * (s.caln.toNat : Int))
    && decide (s.caln.toNat ≤ 10) && decide (s.filt.x = s.win.x.mean ∧ s.filt.y = s.win.y.mean)
    && decide (s.ref = if s.caln.toNat = 10 then ⟨some (meanOfSum s.acc.x.toInt), some (meanOfSum s.acc.y.toInt)⟩
        else ⟨none, none⟩)
    && decide (s.phase = .calibrated ∨ s.phase = .running → s.caln.toNat = 10)
    && decide (s.phase = .reset ∨ s.phase = .ready → s.caln.toNat < 10)
    && decide (s.phase = .calibrated ∨ s.phase = .running → has s.raw.x = true ∧ has s.raw.y = true)

theorem okReg_range {r : Option Sample} {v : Sample} (h : okReg r = true) (hv : r = some v) : inSampleRange v := by
  subst hv
  simpa [okReg, inSampleRange] using h

theorem okWindow_range {w : Window} {i : BitVec 2} {v : Sample} (h : okWindow w = true) (hv : w.get i = some v) :
    inSampleRange v := by
  simp only [okWindow, Bool.and_eq_true] at h
  unfold Window.get at hv
  split at hv
  · exact okReg_range h.1.1.1 hv
  · split at hv
    · exact okReg_range h.1.1.2 hv
    · split at hv
      · exact okReg_range h.1.2 hv
      · exact okReg_range h.2 hv

/-- A checked state meets the invariant once its engine, its cause and its freshness are right. -/
theorem inv_of_checks {s : State} (h : checks s = true)
    (hp : (s.phase = .halted ↔ s.fault ≠ .none) ∧ (s.phase = .halted ↔ s.stg = .halt)
      ∧ (s.phase = .running ↔ s.stg.isRunning = true) ∧ (s.stg.isAck = true → s.phase = .calibrated)
      ∧ (s.phase = .reset ∨ s.phase = .ready → s.stg = .off ∧ s.led = .off3)
      ∧ (s.phase = .reset ∨ s.phase = .ready ∨ s.phase = .calibrated → s.lvl = .zero ∧ s.snap = .zero))
    (ht : if s.stg.isTimed then 1 ≤ s.tmr.toNat ∧ s.tmr.toNat ≤ stageTicks s.stg s.snap s.k else s.tmr = 0)
    (hk : if s.stg.inRound then 1 ≤ s.k.toNat else s.k = 0)
    (hl : s.led = stageLed s.stg s.snap ∧ stageEnabled s.stg s.snap s.k = true)
    (hc : causeRecorded s.fault s.fcmd) (hf : s.phase = .reset → s = { State.reset with env := s.env }) : Inv s := by
  simp only [checks, Bool.and_eq_true, decide_eq_true_eq] at h
  obtain ⟨⟨⟨⟨⟨⟨⟨⟨⟨⟨⟨⟨⟨⟨⟨rx, ry⟩, rz⟩, wx⟩, wy⟩, fx⟩, fy⟩, ex⟩, ey⟩, ac⟩, cn⟩, fm⟩, rm⟩, cd⟩, co⟩, rh⟩ := h
  refine ⟨?_, ?_, ?_, ?_, ?_, cn, ?_, ?_, cd, co, rh, hp.1, hp.2.1, hp.2.2.1, hp.2.2.2.1, hp.2.2.2.2.1,
    hp.2.2.2.2.2, ht, hk, hl.1, hl.2, hc, hf⟩
  · intro a v hv
    cases a
    · exact okReg_range rx hv
    · exact okReg_range ry hv
    · exact okReg_range rz hv
  · intro a i v hv
    cases a
    · exact okWindow_range wx hv
    · exact okWindow_range wy hv
  · intro a v hv
    cases a
    · exact okReg_range fx hv
    · exact okReg_range fy hv
  · intro a v hv
    cases a
    · exact okReg_range ex hv
    · exact okReg_range ey hv
  · intro a
    cases a
    · exact ⟨ac.1, ac.2.1⟩
    · exact ac.2.2
  · intro a
    cases a
    · exact fm.1
    · exact fm.2
  · intro a
    by_cases hn : s.caln.toNat = 10 <;> cases a <;> simp [rm, hn, Xy.get, Config.calN]

theorem inv_nine : Inv stNine :=
  inv_of_checks (by decide) (by decide) (by decide) (by decide) (by decide) rfl (by decide)
theorem inv_calibrated : Inv stCalibrated :=
  inv_of_checks (by decide) (by decide) (by decide) (by decide) (by decide) rfl (by decide)
theorem inv_ack : Inv stAck :=
  inv_of_checks (by decide) (by decide) (by decide) (by decide) (by decide) rfl (by decide)
theorem inv_running : Inv stRunning :=
  inv_of_checks (by decide) (by decide) (by decide) (by decide) (by decide) rfl (by decide)
theorem inv_halted : Inv stHalted :=
  inv_of_checks (by decide) (by decide) (by decide) (by decide) (by decide) ⟨.cal, by decide, by decide⟩ (by decide)
theorem inv_idle : Inv (stStage .ri ⟨1, 0, 0, 0⟩ 1 1 .on3) :=
  inv_of_checks (by decide) (by decide) (by decide) (by decide) (by decide) rfl (by decide)

/-! ### A state and operands that meet the hypotheses of each obligation, clause by clause -/

theorem witness_DecodeOfEncode :
    (Instr.ldb .Z 0xFF 0xFF).wellFormed = true ∧ (Instr.push .Y).wellFormed = true := by decide

theorem witness_EncodeOfDecode : decode 0x2800FFFC = .ok (.ldb .Z 0xFF 0xFC) := by decide

theorem witness_OpcodeMapSelectsTheCommand :
    (∀ r ∈ opcodeRows, r.admits 0x80000000 = false) ∧ (∀ r ∈ opcodeRows, r.admits 0x2C000000 = false) := by decide

theorem witness_IllegalWordsAreExactlyTheReservedOnes :
    (∃ e, decode 0x80000000 = .error e) ∧ State.reset.phase ≠ .halted ∧ stHalted.phase = .halted :=
  ⟨⟨.reservedOpcode, by decide⟩, by decide, by decide⟩

theorem witness_SampleReconstruction : (0x00 : Byte).extractLsb' 2 6 = (0x03 : Byte).extractLsb' 2 6 := by decide

theorem witness_PackThenUnpack :
    ((-8192 : Int) ≤ -8192 ∧ (-8192 : Int) ≤ 8191) ∧ ((-8192 : Int) ≤ 8191 ∧ (8191 : Int) ≤ 8191)
      ∧ (-8193 : Int) < -8192 ∧ (8191 : Int) < 8192 := by decide

theorem witness_MeanTruncatesTowardZero : ([1, 2, 3, 4] : List Int).Perm [4, 3, 2, 1] := by decide

theorem witness_MeanStaysInRange :
    inSampleRange (BitVec.ofInt 16 (-8192)) ∧ inSampleRange (BitVec.ofInt 16 8191) :=
  ⟨⟨by decide, by decide⟩, ⟨by decide, by decide⟩⟩

theorem witness_ClassificationPolicy :
    ((149 : Int) - 100).natAbs < 50 ∧ (-400 : Int) - 100 ≤ -500 ∧ (600 : Int) - 100 ≥ 500
      ∧ 50 ≤ ((50 : Int) - 100).natAbs ∧ ((599 : Int) - 100).natAbs ≤ 499 ∧ 50 ≤ ((599 : Int) - 100).natAbs := by decide

theorem witness_LevelsPersistOutsideTheDeadzone :
    50 ≤ ((50 : Int) - 100).natAbs ∧ (2 : Level) ≠ 0 ∧ (599 : Int) - 100 < 500 ∧ -500 < (-399 : Int) - 100
      ∧ (-400 : Int) - 100 ≤ -500 ∧ ((599 : Int) - 100).natAbs ≤ 499 := by decide

theorem witness_CommandsRunTheChecksInOrder :
    stHalted.phase = .halted ∧ State.reset.phase ≠ .halted ∧ decode 0x48000000 = .error .axOutOfRange
      ∧ decode 0x30000000 = .ok .cal ∧ legal .cal State.reset.phase = false ∧ legal .cal stNine.phase = true
      ∧ takeEvent (cmdReady (present 0 State.reset)) (present 0 State.reset).env.pending = some (.cmd 0, []) := by
  decide

theorem witness_InitChecksTheIdentity :
    State.reset.phase = .reset ∧ Config.deviceId = Config.deviceId ∧ Config.deviceId + 1 ≠ Config.deviceId
      ∧ stReady.phase = .ready ∧ stCalibrated.phase = .calibrated ∧ stRunning.phase = .running := by
  refine ⟨rfl, rfl, ?_, rfl, rfl, rfl⟩
  bv_omega

theorem witness_LdbWritesTheSample :
    stReady.phase = .ready ∧ stCalibrated.phase = .calibrated ∧ stRunning.phase = .running
      ∧ State.reset.phase = .reset ∧ Axis.Y ≠ Axis.X
      ∧ (fieldOpc 0x2C000000 = 2 ∧ fieldAx 0x2C000000 = 3) ∧ (fieldOpc 0x20011234 = 2 ∧ fieldMbz 0x20011234 ≠ 0) := by
  decide

theorem witness_CalAccumulatesAndFinishes :
    (stReady.phase = .ready ∧ stReady.raw.x = none)
      ∧ (stNine.phase = .ready ∧ stNine.raw.x = some 100 ∧ stNine.raw.y = holds (-4) ∧ stNine.caln.toNat + 1 = 10)
      ∧ ({ stNine with caln := 8 } : State).caln.toNat + 1 ≠ 10 ∧ Inv stNine ∧ stRunning.phase = .running :=
  ⟨by decide, by decide, by decide, inv_nine, rfl⟩

theorem witness_PushInsertsAndAverages :
    stRunning.phase = .running ∧ stRunning.raw.get (FAxis.X).toAxis = holds 100
      ∧ (∃ s0 s1 s2 s3, (stRunning.win.get .X).set stRunning.widx (holds 100) = ⟨some s0, some s1, some s2, some s3⟩)
      ∧ stCalibrated.phase = .calibrated
      ∧ (∃ i, ((stCalibrated.win.get .X).set stCalibrated.widx (holds 100)).get i = none)
      ∧ ({ stCalibrated with raw := ⟨none, none, none⟩ } : State).raw.get (FAxis.Y).toAxis = none
      ∧ State.reset.phase = .reset ∧ stReady.phase = .ready
      ∧ (fieldOpc 0x48000000 = 4 ∧ fieldAx 0x48000000 = 2) ∧ (fieldOpc 0x4C000000 = 4 ∧ fieldAx 0x4C000000 = 3) :=
  ⟨rfl, rfl, ⟨_, _, _, _, rfl⟩, rfl, ⟨1, rfl⟩, rfl, rfl, rfl, by decide, by decide⟩

theorem witness_AdvWrapsModuloFour :
    stCalibrated.phase = .calibrated ∧ ({ stRunning with widx := 3 } : State).phase = .running
      ∧ State.reset.phase = .reset ∧ stReady.phase = .ready := by decide

theorem witness_ClsWritesItsPair :
    stRunning.phase = .running ∧ stRunning.filt.get .X = holds 2500 ∧ stRunning.ref.get .X = holds 100
      ∧ Inv stRunning ∧ FAxis.Y ≠ FAxis.X ∧ ({ stRunning with filt := ⟨none, none⟩ } : State).filt.get .Y = none
      ∧ stCalibrated.phase = .calibrated
      ∧ (fieldOpc 0x68000000 = 6 ∧ fieldAx 0x68000000 = 2) ∧ (fieldOpc 0x6C000000 = 6 ∧ fieldAx 0x6C000000 = 3) :=
  ⟨rfl, rfl, rfl, inv_running, by decide, rfl, rfl, by decide, by decide⟩

theorem witness_StartTakesTheFirstSnapshot :
    stCalibrated.phase = .calibrated ∧ Inv stCalibrated ∧ State.reset.phase = .reset ∧ stReady.phase = .ready
      ∧ stRunning.phase = .running ∧ cmdReady stCalibrated = true :=
  ⟨rfl, inv_calibrated, rfl, rfl, rfl, rfl⟩

theorem witness_FirstCycleIsOff :
    Inv stCalibrated ∧ stCalibrated.phase = .calibrated ∧ (∃ t, exec .start stCalibrated = .next t)
      ∧ 0 < Config.tTick :=
  ⟨inv_calibrated, rfl, ⟨_, rfl⟩, Nat.succ_pos _⟩

theorem witness_FaultEntryRecordsAndHalts :
    State.reset.phase ≠ .halted
      ∧ (∃ t, cmdEvent 0xFFFFFFFF State.reset = .next t ∧ t.phase = .halted)
      ∧ stHalted.phase = .halted ∧ cmdEvent 0x70000000 stHalted = .next stHalted :=
  ⟨by decide, ⟨_, rfl, rfl⟩, rfl, rfl⟩

theorem witness_FaultAndTickInEitherOrder :
    stRunning.phase ≠ .halted ∧ ∃ t, cmdEvent 0x70000000 stRunning = .next t ∧ t.phase = .halted :=
  ⟨by decide, _, rfl, rfl⟩

theorem witness_OnlyResetLeavesTheHaltedState :
    stHalted.phase = .halted ∧ stHalted.stg = .halt
      ∧ ∃ t, runEvent .reset stHalted = .next t ∧ t.phase ≠ .halted :=
  ⟨rfl, rfl, _, rfl, by decide⟩

theorem witness_PhaseOnlyMovesForward :
    (∃ t, runEvent .reset stHalted = .next t ∧ t.phase ≠ stHalted.phase)
      ∧ (∃ t, runEvent (.cmd 0x30000000) stNine = .next t ∧ t.phase ≠ stNine.phase)
      ∧ (∃ t, runEvent (.cmd 0x70000000) stCalibrated = .next t ∧ t.phase ≠ stCalibrated.phase)
      ∧ ∃ t, runEvent (.cmd 0x80000000) stRunning = .next t ∧ t.phase ≠ stRunning.phase :=
  ⟨⟨_, rfl, by decide⟩, ⟨_, rfl, by decide⟩, ⟨_, rfl, by decide⟩, _, rfl, by decide⟩

theorem witness_DataRegistersHaveOneWriter :
    (∃ t, runEvent (.cmd 0x2000FFFC) stNine = .next t ∧ t.raw.get .X ≠ stNine.raw.get .X)
      ∧ (∃ t, runEvent (.cmd 0x40000000) stRunning = .next t ∧ (t.win.get .X).get 0 ≠ (stRunning.win.get .X).get 0
          ∧ t.filt.get .X ≠ stRunning.filt.get .X)
      ∧ (∃ t, runEvent (.cmd 0x50000000) stRunning = .next t ∧ t.widx ≠ stRunning.widx)
      ∧ (∃ t, runEvent (.cmd 0x30000000) stNine = .next t ∧ t.acc ≠ stNine.acc ∧ t.ref ≠ stNine.ref)
      ∧ (∃ t, runEvent (.cmd 0x60000000) stRunning = .next t ∧ t.lvl.pos .X ≠ (0 : Level))
      ∧ (∃ t, runEvent (.cmd 0x60000000) { stRunning with lvl := .zero } = .next t
          ∧ t.lvl.pos .X ≠ ({ stRunning with lvl := .zero } : State).lvl.pos .X)
      ∧ Event.cmd 0 ≠ .reset :=
  ⟨⟨_, rfl, by decide⟩, ⟨_, rfl, by decide, by decide⟩, ⟨_, rfl, by decide⟩, ⟨_, rfl, by decide, by decide⟩,
    ⟨_, rfl, by decide⟩, ⟨_, rfl, by decide⟩, by decide⟩

theorem witness_NoCommandReadsTheZSample : ∃ t, exec .cal stNine = .next t := ⟨_, rfl⟩

theorem witness_SamplePathHandsOverAtThreePoints :
    (∃ t, exec .nop stRunning = .next t) ∧ (∃ t, exec .cal stNine = .next t)
      ∧ (∃ t, exec .start stCalibrated = .next t) ∧ ∃ t, exec .cal stRunning = .next t :=
  ⟨⟨_, rfl⟩, ⟨_, rfl⟩, ⟨_, rfl⟩, _, rfl⟩

theorem witness_ReferenceIsImmutable :
    (∃ t, runEvent .tick stAck = .next t) ∧ Event.tick ≠ .reset ∧ stAck.phase = .calibrated
      ∧ stRunning.phase = .running ∧ stHalted.phase = .halted ∧ ∃ t, runEvent .reset stHalted = .next t :=
  ⟨⟨_, rfl⟩, by decide, rfl, rfl, rfl, _, rfl⟩

theorem witness_ValidBitsStaySet :
    (∃ t, runEvent (.cmd 0x40000000) stRunning = .next t) ∧ Event.cmd 0x40000000 ≠ .reset
      ∧ has (stRunning.raw.get .X) = true ∧ has ((stRunning.win.get .X).get 0) = true
      ∧ has (stRunning.filt.get .X) = true ∧ has (stRunning.ref.get .Y) = true :=
  ⟨⟨_, rfl⟩, by decide, by decide, by decide, by decide, by decide⟩

theorem witness_ConstantStreamCalibratesExactly :
    stReady.phase = .ready ∧ stReady.caln = 0 ∧ stReady.acc = ⟨0, 0⟩ ∧ inSampleRange (BitVec.ofInt 16 (-8192))
      ∧ inSampleRange (BitVec.ofInt 16 8191)
      ∧ ({ stReady with raw := ⟨holds 8191, holds 8191, none⟩ } : State).raw.x = some (BitVec.ofInt 16 8191) :=
  ⟨rfl, rfl, rfl, ⟨by decide, by decide⟩, ⟨by decide, by decide⟩, rfl⟩

theorem witness_MeanOfTheFourMostRecent :
    stCalibrated.phase = .calibrated ∧ stRunning.phase = .running
      ∧ ∀ v ∈ [(-8192 : Int), 8191, 0, -1], -8192 ≤ v ∧ v ≤ 8191 := by decide

theorem witness_PrefillFillsBothWindows :
    stCalibrated.phase = .calibrated
      ∧ ∀ v ∈ [(⟨-8192, 8191, 0⟩ : Xyz Int), ⟨0, 0, 0⟩, ⟨1, 2, 3⟩, ⟨8191, -8192, 8191⟩],
          ∀ a, -8192 ≤ v.get a ∧ v.get a ≤ 8191 := by
  refine ⟨rfl, fun v hv a => ?_⟩
  simp only [List.mem_cons, List.not_mem_nil, or_false] at hv
  rcases hv with rfl | rfl | rfl | rfl <;> cases a <;> decide

theorem witness_BeginCycleSnapshots :
    allZero stCalibrated.lvl = true ∧ allZero stRunning.lvl = false
      ∧ ∃ t, runEvent .tick stRunning = .next t ∧ t.snap ≠ stRunning.snap :=
  ⟨by decide, by decide, _, rfl, by decide⟩

theorem witness_TickEndsStagesOnTime :
    stCalibrated.stg = .off ∧ stHalted.stg = .halt
      ∧ (stRunning.stg = .ri ∧ stRunning.k.toNat = 3 ∧ stRunning.tmr = 1)
      ∧ (∀ g, (stStage g ⟨1, 0, 0, 2⟩ 2 1 .on3).stg = g ∧ (stStage g ⟨1, 0, 0, 2⟩ 2 1 .on3).tmr = 1
          ∧ (stStage g ⟨1, 0, 0, 2⟩ 2 1 .on3).k.toNat < 3)
      ∧ 1 < (stStage .xp ⟨1, 0, 0, 0⟩ 1 2 .on3).tmr.toNat ∧ 99 < (stStage .xp ⟨1, 0, 0, 0⟩ 1 100 .on3).tmr.toNat :=
  ⟨rfl, rfl, ⟨rfl, rfl, rfl⟩, fun _ => ⟨rfl, rfl, (by decide : (2 : BitVec 2).toNat < 3)⟩, by decide, by decide⟩

theorem witness_SnapshotsHappenAtCycleEnds :
    stRunning.tmr.toNat ≤ 1 ∧ (stRunning.stg = .ri ∧ stRunning.k = 3)
      ∧ ((stStage .yn ⟨3, 0, 3, 0⟩ 3 1 .on3).stg = .yn ∧ roundIdle ⟨3, 0, 3, 0⟩ 3 = 0)
      ∧ (stStage .zt .zero 0 1 .off3).stg = .zt
      ∧ ¬((stStage .xp ⟨3, 0, 3, 0⟩ 3 1 .on3).stg = .zt ∨ (stStage .xp ⟨3, 0, 3, 0⟩ 3 1 .on3).stg = .ri
          ∨ (stStage .xp ⟨3, 0, 3, 0⟩ 3 1 .on3).stg = .yn) := by decide

theorem witness_StageMachineRefinesSegmentForm :
    1199 < segmentTicks (cycleSegments stRunning.lvl) ∧ 0 < segmentTicks (cycleSegments stCalibrated.lvl) :=
  ⟨by decide, Nat.succ_pos _⟩

theorem witness_CycleDurations : allZero ⟨0, 0, 0, 1⟩ = false ∧ allZero ⟨0, 0, 0, 0⟩ = true := by decide

theorem witness_AcknowledgementHoldsThePort : 799 < 800 := by decide

theorem witness_StalenessIsBounded : Inv stRunning ∧ stRunning.phase = .running := ⟨inv_running, rfl⟩

theorem witness_IndicatorShowsSixValues :
    Inv (stStage .ri ⟨1, 0, 0, 0⟩ 1 1 .on3) ∧ (tick (stStage .ri ⟨1, 0, 0, 0⟩ 1 1 .on3)).stg = .ri :=
  ⟨inv_idle, by decide⟩

theorem witness_ReadPortMap : 0x18 ≤ (0x18 : ReadAddr).toNat ∧ 0x18 ≤ (0x1F : ReadAddr).toNat := by decide

theorem witness_StatusLayout : Inv stCalibrated := inv_calibrated

theorem witness_ReadReturnsAndChangesNothing :
    readReg 0x0B stCalibrated = some 100 ∧ readReg 0x09 stCalibrated = none := by decide

/-- One of the two polarities is the machine's (R7: open). -/
theorem witness_OutputPins : Config.ledActiveLow = false ∨ Config.ledActiveLow = true := by
  cases Config.ledActiveLow
  · exact .inl rfl
  · exact .inr rfl

theorem witness_ClockCycleEvents :
    (Inputs.mk true true 0 true none).rst = true
      ∧ ((Inputs.mk false true 0 true none).rst = false ∧ (Inputs.mk false true 0 true none).cmdValid = true
        ∧ (Inputs.mk false true 0 true none).tickMs = true ∧ (Inputs.mk false true 0 true none).rdAddr = none) := by
  decide

theorem witness_StepRunsTheDecodedCommand :
    (present 0x30000000 stNine).env.pending = [.cmd 0x30000000] ∧ cmdReady (present 0x30000000 stNine) = true
      ∧ decode 0x30000000 = .ok .cal ∧ decode 0x34000000 = .error .axNotZero := by decide

theorem witness_StepTakesPendingEventsInOrder :
    (withPending [.tick] stAck).env.pending = [.tick] ∧ (withPending [.reset] stAck).env.pending = [.reset]
      ∧ (withPending [.read 0] stAck).env.pending = [.read 0] ∧ stAck.env.pending = [] := by decide

theorem witness_HeldCommandWaits :
    (withPending [.cmd 0x70000000, .cmd 0, .read 5, .tick] stAck).env.pending
        = .cmd 0x70000000 :: ([0].map .cmd ++ .read 5 :: [.tick])
      ∧ (withPending [.cmd 0x70000000, .cmd 0] stAck).env.pending = .cmd 0x70000000 :: [0].map .cmd
      ∧ cmdReady stAck = false ∧ (∀ v, Event.read 5 ≠ .cmd v) ∧ (∀ v, Event.tick ≠ .cmd v)
      ∧ (∀ v, Event.reset ≠ .cmd v)
      ∧ ∃ t, step (withPending [.cmd 0x70000000, .tick] stAck) = .next t :=
  ⟨rfl, rfl, rfl, nofun, nofun, nofun, _, rfl⟩

theorem witness_StepKeepsTheInvariant : Inv stRunning ∧ ∃ t, step stRunning = .next t := ⟨inv_running, _, rfl⟩

theorem witness_InvariantGivesRule45 :
    Inv stRunning ∧ Inv stAck ∧ Inv stHalted ∧ has (stRunning.filt.get .Y) = true ∧ stAck.stg.isAck = true :=
  ⟨inv_running, inv_ack, inv_halted, by decide, by decide⟩

end Sys2Proof.Machine
end

/-! SUPPORT. Which event a step runs (spec/00_scope.md R12, spec/20_memory.md R67), and the statements O55 and O56. -/

namespace Sys2Proof

/-- Only commands that have a legal encoding are decoded: formats N, B and I admit every operand, and format A only the
filtered axes (R81, R84). -/
theorem wellFormed_of_decode {w : Word} {i : Instr} (h : decode w = .ok i) : i.wellFormed = true := by
  obtain ⟨-, hop⟩ := decode_ok h
  obtain ⟨-, nop⟩ | ⟨-, init⟩ | ⟨-, ldb⟩ | ⟨-, cal⟩ | ⟨-, push⟩ | ⟨-, adv⟩ | ⟨-, cls⟩ | ⟨-, start⟩ := hop
  · obtain ⟨rfl, -⟩ := formatN_ok nop; rfl
  · obtain ⟨rfl, -⟩ := formatI_ok init; rfl
  · obtain ⟨a, rfl, -⟩ := formatB_ok ldb; rfl
  · obtain ⟨rfl, -⟩ := formatN_ok cal; rfl
  · obtain ⟨a, rfl, ha, -⟩ := formatA_ok push; exact ha
  · obtain ⟨rfl, -⟩ := formatN_ok adv; rfl
  · obtain ⟨a, rfl, ha, -⟩ := formatA_ok cls; exact ha
  · obtain ⟨rfl, -⟩ := formatN_ok start; rfl

end Sys2Proof

namespace Sys2Proof.Machine

/-! ### A command word under the decoder (R85, R100) -/

theorem cmdEvent_of_decode_ok {w : Word} {i : Instr} (h : decode w = .ok i) (s : State) :
    cmdEvent w s = exec i s := by
  simp [cmdEvent, h]

theorem cmdEvent_of_decode_error {w : Word} {e : Reject} (h : decode w = .error e) (s : State) :
    cmdEvent w s = .next (illegal w s) := by
  simp [cmdEvent, h]

/-! ### The event a step runs -/

/-- The step runs the event the agenda gives, at the state with that event taken. -/
theorem step_of_takeEvent_some {s : State} {e : Event} {rest : List Event}
    (h : takeEvent (cmdReady s) s.env.pending = some (e, rest)) : step s = runEvent e (withPending rest s) := by
  simp [step, nextStep, h]

/-- Where no pending event can occur the block waits (log entry 2). -/
theorem step_of_takeEvent_none {s : State} (h : takeEvent (cmdReady s) s.env.pending = none) : step s = .next s := by
  simp [step, nextStep, h]

/-- At a ready port the step runs the first pending event. -/
theorem step_of_ready {s : State} {e : Event} {rest : List Event} (h : s.env.pending = e :: rest)
    (hr : cmdReady s = true) : step s = runEvent e (withPending rest s) :=
  step_of_takeEvent_some (by rw [h, hr, takeEvent_ready])

/-- `cmd_ready` holds back commands only (R38): an event that is no command is taken from the head of the agenda. -/
theorem takeEvent_of_ne_cmd (ready : Bool) {e : Event} (he : ∀ w, e ≠ .cmd w) (rest : List Event) :
    takeEvent ready (e :: rest) = some (e, rest) := by
  cases ready with
  | true => exact takeEvent_ready e rest
  | false => exact takeEvent_not_ready [] he rest

/-- Whatever `cmd_ready` is, the step runs a first pending event that is no command. -/
theorem step_of_ne_cmd {s : State} {e : Event} {rest : List Event} (h : s.env.pending = e :: rest)
    (he : ∀ w, e ≠ .cmd w) : step s = runEvent e (withPending rest s) :=
  step_of_takeEvent_some (by rw [h, takeEvent_of_ne_cmd _ he])

/-! ### The statements -/

/-- Settles O55: a ready port takes the word, and the decoder decides whether it is a command or an illegal word. -/
theorem stepRunsTheDecodedCommand : Obligations.StepRunsTheDecodedCommand := by
  unfold Obligations.StepRunsTheDecodedCommand
  intro s w rest hp hr
  have hstep : step s = cmdEvent w (withPending rest s) := step_of_ready hp hr
  refine ⟨fun i hi => ⟨wellFormed_of_decode hi, ?_⟩, fun e he => ?_⟩
  · rw [hstep, cmdEvent_of_decode_ok hi]
  · rw [hstep, cmdEvent_of_decode_error he, illegal, withPending_phase]

/-- Settles O56: each of the three events is no command, so the step runs it from the head of the agenda. -/
theorem stepTakesPendingEventsInOrder : Obligations.StepTakesPendingEventsInOrder := by
  unfold Obligations.StepTakesPendingEventsInOrder
  refine ⟨fun s rest hp => ?tick, fun s rest hp => ?reset, fun s a rest hp => ?read, fun s hp => ?empty⟩
  case tick => exact step_of_ne_cmd hp nofun
  case reset => exact step_of_ne_cmd hp nofun
  case read => exact step_of_ne_cmd hp nofun
  case empty => exact step_of_takeEvent_none (by rw [hp, takeEvent])

end Sys2Proof.Machine

/-! SUPPORT. Everything an event can do to the state (spec/00_scope.md R12, spec/10_state.md R20): the frames of the
pulse engine's operations, and one inversion lemma for all events. -/

namespace Sys2Proof

/-- A word that decodes is the word of its command: the format fixes every field (R80, R84). -/
theorem encode_of_decode {w : Word} {i : Instr} (h : decode w = .ok i) : encode i = w := by
  obtain ⟨hm, hop⟩ := decode_ok h
  have fields := wordOf_fields hm
  obtain ⟨ho, nop⟩ | ⟨ho, init⟩ | ⟨ho, ldb⟩ | ⟨ho, cal⟩ | ⟨ho, push⟩ | ⟨ho, adv⟩ | ⟨ho, cls⟩ | ⟨ho, start⟩ := hop
  · obtain ⟨rfl, hx, hh, hl⟩ := formatN_ok nop
    rwa [ho, hx, hh, hl] at fields
  · obtain ⟨rfl, hx, hh⟩ := formatI_ok init
    rwa [ho, hx, hh] at fields
  · obtain ⟨a, rfl, hx⟩ := formatB_ok ldb
    rwa [ho, hx] at fields
  · obtain ⟨rfl, hx, hh, hl⟩ := formatN_ok cal
    rwa [ho, hx, hh, hl] at fields
  · obtain ⟨a, rfl, -, hx, hh, hl⟩ := formatA_ok push
    rwa [ho, hx, hh, hl] at fields
  · obtain ⟨rfl, hx, hh, hl⟩ := formatN_ok adv
    rwa [ho, hx, hh, hl] at fields
  · obtain ⟨a, rfl, -, hx, hh, hl⟩ := formatA_ok cls
    rwa [ho, hx, hh, hl] at fields
  · obtain ⟨rfl, hx, hh, hl⟩ := formatN_ok start
    rwa [ho, hx, hh, hl] at fields

end Sys2Proof

namespace Sys2Proof.Machine

/-! ### The phases of each command (R100) -/

theorem legal_init_iff {id : Byte} {p : Phase} : legal (.init id) p = true ↔ p = .reset := by
  cases p <;> simp [legal]

theorem legal_cal_iff {p : Phase} : legal .cal p = true ↔ p = .ready := by
  cases p <;> simp [legal]

theorem legal_cls_iff {a : Axis} {p : Phase} : legal (.cls a) p = true ↔ p = .running := by
  cases p <;> simp [legal]

theorem legal_start_iff {p : Phase} : legal .start p = true ↔ p = .calibrated := by
  cases p <;> simp [legal]

/-- `NOP` is legal in every phase but `PH_HALTED`, so it never raises `SEQUENCE_ERROR`. -/
theorem ne_nop_of_not_legal {i : Instr} {p : Phase} (hp : p ≠ .halted) (h : legal i p = false) : i ≠ .nop := by
  rintro rfl
  cases p <;> simp [legal] at h hp

/-! ### The pulse engine writes only its own registers (R20, R176) -/

/-- `t` is `s` but for the engine's registers `SNAP`, `STG`, `K`, `TMR` and `LED`. -/
def SameButEngine (s t : State) : Prop :=
  t = { s with snap := t.snap, stg := t.stg, k := t.k, tmr := t.tmr, led := t.led }

theorem seekRound_sameButEngine {k p : Nat} {s t : State} (h : seekRound k p s = some t) : SameButEngine s t := by
  rcases seekRound_cases k p s with ⟨-, -, h'⟩ | ⟨-, -, -, h'⟩ | ⟨-, -, -, h'⟩ | ⟨-, -, -, h'⟩ <;>
    rw [h'] at h <;> cases h <;> rfl

theorem beginCycle_sameButEngine (s : State) : SameButEngine s (beginCycle s) := by
  rcases beginCycle_cases s with ⟨-, h⟩ | ⟨-, -, h⟩ | ⟨-, -, -, h⟩ <;> rw [h] <;> rfl

theorem seek_sameButEngine (k p : Nat) (s : State) : SameButEngine s (seek k p s) := by
  rcases seek_cases k p s with ⟨t, ht, h⟩ | ⟨-, -, t, ht, h⟩ | ⟨-, -, h⟩ <;> rw [h]
  · exact seekRound_sameButEngine ht
  · exact seekRound_sameButEngine ht
  · exact beginCycle_sameButEngine s

theorem endStage_sameButEngine (s : State) : SameButEngine s (endStage s) := by
  unfold endStage
  split
  case h_7 | h_9 => exact seek_sameButEngine ..
  case h_10 =>
    split
    · exact seek_sameButEngine ..
    · exact beginCycle_sameButEngine s
  case h_11 => exact beginCycle_sameButEngine s
  all_goals rfl

theorem tick_sameButEngine (s : State) : SameButEngine s (tick s) := by
  rcases tick_cases s with ⟨-, h⟩ | ⟨-, -, -, h⟩ | ⟨-, -, -, h⟩ <;> rw [h]
  · rfl
  · rfl
  · exact endStage_sameButEngine s

theorem SameButEngine.phase_eq {s t : State} (h : SameButEngine s t) : t.phase = s.phase := by
  unfold SameButEngine at h
  rw [h]

/-! ### The data registers and levels -/

/-- The data registers and the levels of `t` are those of `s` (R21 to R27). -/
structure SameData (s t : State) : Prop where
  raw : t.raw = s.raw
  win : t.win = s.win
  widx : t.widx = s.widx
  filt : t.filt = s.filt
  acc : t.acc = s.acc
  caln : t.caln = s.caln
  ref : t.ref = s.ref
  lvl : t.lvl = s.lvl

theorem SameButEngine.sameData {s t : State} (h : SameButEngine s t) : SameData s t := by
  unfold SameButEngine at h
  constructor <;> rw [h]

/-- The state with the sums and the count of one more `CAL` (R140). -/
def counted (rx ry : Sample) (s : State) : State :=
  { s with
    acc := ⟨BitVec.ofInt 18 (s.acc.x.toInt + rx.toInt), BitVec.ofInt 18 (s.acc.y.toInt + ry.toInt)⟩
    caln := BitVec.ofNat 4 (s.caln.toNat + 1) }

/-- What the own rule of a command writes into the data registers, where it raises no fault: one constructor per
write. Only the tenth `CAL` writes other registers beside (R141). -/
inductive DataEffect (s : State) : Instr → State → Prop where
  | sample (a : Axis) (hi lo : Byte) :
      DataEffect s (.ldb a hi lo) { s with raw := s.raw.set a (some (BitVec.ofInt 16 (unpack14 hi lo))) }
  | count (rx ry : Sample) (hx : s.raw.x = some rx) (hy : s.raw.y = some ry)
      (hn : s.caln.toNat + 1 ≠ Config.calN) : DataEffect s .cal (counted rx ry s)
  | finish (rx ry : Sample) (hx : s.raw.x = some rx) (hy : s.raw.y = some ry)
      (hn : s.caln.toNat + 1 = Config.calN) :
      DataEffect s .cal (ackStart { counted rx ry s with
        ref := ⟨some (meanOfSum (s.acc.x.toInt + rx.toInt)), some (meanOfSum (s.acc.y.toInt + ry.toInt))⟩
        phase := .calibrated })
  | fill (f : FAxis) (v : Sample) (hv : s.raw.get f.toAxis = some v)
      (hm : ((s.win.get f).set s.widx (some v)).mean = none) :
      DataEffect s (.push f.toAxis) { s with win := s.win.set f ((s.win.get f).set s.widx (some v)) }
  | average (f : FAxis) (v m : Sample) (hv : s.raw.get f.toAxis = some v)
      (hm : ((s.win.get f).set s.widx (some v)).mean = some m) :
      DataEffect s (.push f.toAxis) { s with
        win := s.win.set f ((s.win.get f).set s.widx (some v))
        filt := s.filt.set f (some m) }
  | advance : DataEffect s .adv (advRule s)
  | classified (f : FAxis) (c r : Sample) (hc : s.filt.get f = some c) (hr : s.ref.get f = some r) :
      DataEffect s (.cls f.toAxis) { s with
        lvl := s.lvl.setPair f (classify c.toInt r.toInt (s.lvl.pos f) (s.lvl.neg f)) }

/-- Everything the own rule of a command that decodes can do: raise a fault with its cause, nothing, arm the block,
start the engine, or write the data registers. -/
theorem ruleOf_cases {w : Word} {i : Instr} (hd : decode w = .ok i) (s : State) :
    (∃ c, c ≠ .none ∧ causeRecorded c w ∧ ruleOf i s = raise c w s)
      ∨ (i = .nop ∧ ruleOf i s = s)
      ∨ (i = .init Config.deviceId ∧ ruleOf i s = { s with phase := .ready })
      ∨ (i = .start ∧ ruleOf i s = beginCycle { s with phase := .running })
      ∨ DataEffect s i (ruleOf i s) := by
  have hw : encode i = w := encode_of_decode hd
  cases i with
  | nop => exact .inr (.inl ⟨rfl, rfl⟩)
  | init id =>
    rcases initRule_cases id s with ⟨rfl, h⟩ | ⟨hid, h⟩
    · exact .inr (.inr (.inl ⟨rfl, h⟩))
    · exact .inl ⟨.identityMismatch, nofun, ⟨id, hid, hd⟩, hw ▸ h⟩
  | ldb a hi lo => exact .inr (.inr (.inr (.inr (.sample a hi lo))))
  | cal =>
    simp only [ruleOf]
    rcases calRule_cases s with ⟨-, h⟩ | ⟨rx, ry, hx, hy, ⟨hn, h⟩ | ⟨hn, h⟩⟩
    · exact .inl ⟨.noValue, nofun, .inl hd, hw ▸ h⟩
    · exact .inr (.inr (.inr (.inr (h ▸ .count rx ry hx hy hn))))
    · exact .inr (.inr (.inr (.inr (h ▸ .finish rx ry hx hy hn))))
  | push a =>
    obtain ⟨f, rfl⟩ := eq_toAxis_of_isFiltered (wellFormed_of_decode hd)
    simp only [ruleOf, onFiltered_toAxis]
    rcases pushRule_cases f s with ⟨-, h⟩ | ⟨v, hv, ⟨hm, h⟩ | ⟨m, hm, h⟩⟩
    · exact .inl ⟨.noValue, nofun, .inr (.inl ⟨_, hd⟩), hw ▸ h⟩
    · exact .inr (.inr (.inr (.inr (h ▸ .fill f v hv hm))))
    · exact .inr (.inr (.inr (.inr (h ▸ .average f v m hv hm))))
  | adv => exact .inr (.inr (.inr (.inr .advance)))
  | cls a =>
    obtain ⟨f, rfl⟩ := eq_toAxis_of_isFiltered (wellFormed_of_decode hd)
    simp only [ruleOf, onFiltered_toAxis]
    rcases clsRule_cases f s with ⟨-, h⟩ | ⟨c, r, hc, hr, h⟩
    · exact .inl ⟨.noValue, nofun, .inr (.inr ⟨_, hd⟩), hw ▸ h⟩
    · exact .inr (.inr (.inr (.inr (h ▸ .classified f c r hc hr))))
  | start => exact .inr (.inr (.inr (.inl ⟨rfl, rfl⟩)))

/-! ### Everything an event can do -/

/-- What an event can do to the state, one constructor per way. -/
inductive Effect (s : State) : Event → State → Prop where
  | reset : Effect s .reset (resetEvent s)
  | tick : Effect s .tick (tick s)
  | read (a : ReadAddr) : Effect s (.read a) (readEvent a s)
  /-- A command discarded in `PH_HALTED` (R217), or `NOP` (R101). -/
  | nothing (w : Word) : Effect s (.cmd w) s
  | fault (w : Word) (c : FaultCode) (hp : s.phase ≠ .halted) (hc : c ≠ .none) (cause : causeRecorded c w) :
      Effect s (.cmd w) (raise c w s)
  | arm (w : Word) (hd : decode w = .ok (.init Config.deviceId)) (hp : s.phase = .reset) :
      Effect s (.cmd w) { s with phase := .ready }
  | start (w : Word) (hd : decode w = .ok .start) (hp : s.phase = .calibrated) :
      Effect s (.cmd w) (beginCycle { s with phase := .running })
  | data (w : Word) (i : Instr) (t : State) (hd : decode w = .ok i) (hl : legal i s.phase = true)
      (hw : DataEffect s i t) : Effect s (.cmd w) t

theorem effect_of_cmdEvent {w : Word} {s t : State} (h : cmdEvent w s = .next t) : Effect s (.cmd w) t := by
  rcases cmdEvent_cases h with ⟨i, hd, he⟩ | ⟨r, hd, hp, rfl⟩ | ⟨r, hd, hp, rfl⟩
  · rcases exec_cases he with ⟨hp, rfl⟩ | ⟨-, hwf, -⟩ | ⟨hp, -, hl, rfl⟩ | ⟨hp, -, hl, rfl⟩
    · exact .nothing w
    · exact absurd (wellFormed_of_decode hd) (by simp [hwf])
    · rw [encode_of_decode hd]
      exact .fault w _ hp nofun ⟨i, hd, ne_nop_of_not_legal hp hl⟩
    · rcases ruleOf_cases hd s with ⟨c, hc, cause, h⟩ | ⟨rfl, h⟩ | ⟨rfl, h⟩ | ⟨rfl, h⟩ | hw
      · exact h ▸ .fault w c hp hc cause
      · exact .nothing w
      · exact h ▸ .arm w hd (legal_init_iff.mp hl)
      · exact .start w hd (legal_start_iff.mp hl)
      · exact .data w i _ hd hl hw
  · exact .nothing w
  · exact .fault w _ hp nofun ⟨r, hd⟩

theorem effect_of_runEvent {e : Event} {s t : State} (h : runEvent e s = .next t) : Effect s e t := by
  cases e with
  | reset => cases h; exact .reset
  | cmd w => exact effect_of_cmdEvent h
  | tick => cases h; exact .tick
  | read a => cases h; exact .read a

/-- Of any event but `Reset`: it leaves the data registers and levels, or it is a command that writes them. -/
theorem Effect.sameData_or_data {e : Event} {s t : State} (h : Effect s e t) (he : e ≠ .reset) :
    SameData s t ∨ ∃ w i, e = .cmd w ∧ decode w = .ok i ∧ DataEffect s i t := by
  cases h with
  | reset => exact absurd rfl he
  | tick => exact .inl (tick_sameButEngine s).sameData
  | start w hd hp =>
    obtain ⟨raw, win, widx, filt, acc, caln, ref, lvl⟩ :=
      (beginCycle_sameButEngine { s with phase := .running }).sameData
    exact .inl ⟨raw, win, widx, filt, acc, caln, ref, lvl⟩
  | data w i t hd hl hw => exact .inr ⟨w, i, rfl, hd, hw⟩
  | read | nothing | fault | arm => exact .inl ⟨rfl, rfl, rfl, rfl, rfl, rfl, rfl, rfl⟩

/-- Only the tenth `CAL` among the commands that write data moves `PHASE` (R140). -/
theorem DataEffect.phase_cases {i : Instr} {s t : State} (h : DataEffect s i t) :
    t.phase = s.phase ∨ (i = .cal ∧ s.caln.toNat + 1 = Config.calN ∧ t.phase = .calibrated) := by
  cases h with
  | finish rx ry hx hy hn => exact .inr ⟨rfl, hn, rfl⟩
  | sample | count | fill | average | advance | classified => exact .inl rfl

end Sys2Proof.Machine

/-! SUPPORT. What the events do to `PHASE` and the data registers (spec/10_state.md R21 to R28, R32), and the statements
O27, O28, O29 and O33. -/

namespace Sys2Proof.Machine

/-! ### Levels and held values -/

theorem Levels.setPair_other (l : Levels) {a b : FAxis} (h : b ≠ a) (p : Level × Level) :
    (l.setPair a p).pos b = l.pos b ∧ (l.setPair a p).neg b = l.neg b := by
  cases a with
  | X =>
    cases b with
    | X => exact absurd rfl h
    | Y => exact ⟨rfl, rfl⟩
  | Y =>
    cases b with
    | X => exact ⟨rfl, rfl⟩
    | Y => exact absurd rfl h

/-- Writing a value into a register takes no other register's value away (R28). -/
theorem Xyz.has_set {α : Type} (v : Xyz (Option α)) (a b : Axis) (e : α) (h : has (v.get b) = true) :
    has ((v.set a (some e)).get b) = true := by
  by_cases hb : b = a
  · subst hb; simp [has]
  · rwa [Xyz.get_set_other v hb]

theorem Xy.has_set {α : Type} (v : Xy (Option α)) (a b : FAxis) (e : α) (h : has (v.get b) = true) :
    has ((v.set a (some e)).get b) = true := by
  by_cases hb : b = a
  · subst hb; simp [has]
  · rwa [Xy.get_set_other v hb]

theorem Window.has_set (w : Window) (i j : BitVec 2) (e : Sample) (h : has (w.get j) = true) :
    has ((w.set i (some e)).get j) = true := by
  by_cases hj : j = i
  · subst hj; simp [has]
  · rwa [Window.get_set_other w hj]

/-- A write into one slot of one window changes no other slot of either window. -/
theorem slot_of_write_ne {v : Xy Window} {f a : FAxis} {i j : BitVec 2} {e : Option Sample}
    (h : ((v.set f ((v.get f).set i e)).get a).get j ≠ (v.get a).get j) : a = f ∧ j = i := by
  obtain rfl : a = f := by
    by_contra ha
    exact h (by rw [Xy.get_set_other v ha])
  refine ⟨rfl, ?_⟩
  by_contra hj
  exact h (by rw [Xy.get_set_self, Window.get_set_other _ hj])

/-- A write of a value into one slot of one window takes no slot's value away. -/
theorem has_slot_after_write (v : Xy Window) (f a : FAxis) (i j : BitVec 2) (e : Sample)
    (h : has ((v.get a).get j) = true) : has (((v.set f ((v.get f).set i (some e))).get a).get j) = true := by
  by_cases ha : a = f
  · subst ha
    rw [Xy.get_set_self]
    exact Window.has_set _ i j e h
  · rwa [Xy.get_set_other v ha]

/-! ### The statements on who writes what -/

/-- Settles O27: of the ways of an event only `INIT`, the tenth `CAL`, `START`, fault entry and `Reset` move `PHASE`. -/
theorem phaseOnlyMovesForward : Obligations.PhaseOnlyMovesForward := by
  unfold Obligations.PhaseOnlyMovesForward
  refine ⟨⟨rfl, rfl, rfl, rfl, rfl, fun p => by cases p <;> decide⟩, fun e s t h hne => ?_⟩
  cases effect_of_runEvent h with
  | reset => exact .inl ⟨rfl, rfl⟩
  | tick => exact absurd (tick_sameButEngine s).phase_eq hne
  | read | nothing => exact absurd rfl hne
  | fault w c hp hc cause => exact .inr ⟨w, rfl, hp, .inl rfl⟩
  | arm w hd hp => exact .inr ⟨w, rfl, by simp [hp], .inr (.inl ⟨hp, rfl, hd⟩)⟩
  | start w hd hp =>
    have hrun : (beginCycle { s with phase := .running }).phase = .running :=
      (beginCycle_sameButEngine _).phase_eq
    exact .inr ⟨w, rfl, by simp [hp], .inr (.inr (.inr ⟨hp, hrun, hd⟩))⟩
  | data w i _ hd hl hw =>
    rcases hw.phase_cases with same | ⟨rfl, hn, hcal⟩
    · exact absurd same hne
    · have hp : s.phase = .ready := legal_cal_iff.mp hl
      exact .inr ⟨w, rfl, by simp [hp], .inr (.inr (.inl ⟨hp, hcal, hd, hn⟩))⟩

/-- Settles O28: an event that leaves some data register or level different is one of the seven data writes; clause by
clause, the writes that reach the register are those of the clause's own command. -/
theorem dataRegistersHaveOneWriter : Obligations.DataRegistersHaveOneWriter := by
  unfold Obligations.DataRegistersHaveOneWriter
  intro e s t h he
  rcases (effect_of_runEvent h).sameData_or_data he with same | ⟨w, i, rfl, hd, hw⟩
  · simp [same.raw, same.win, same.widx, same.filt, same.acc, same.caln, same.ref, same.lvl]
  refine ⟨fun a ha => ?raw, fun a j hj => ?win, fun hx => ?widx, fun a ha => ?filt, fun hs => ?sums, fun hr => ?ref,
    fun a ha => ?lvl⟩
  case raw =>
    cases hw with
    | sample b hi lo =>
      obtain rfl : a = b := not_imp_comm.mp (Xyz.get_set_other _ · _) ha
      exact ⟨w, hi, lo, rfl, hd⟩
    | _ => exact absurd rfl ha
  case win =>
    cases hw with
    | fill f v hv hm | average f v m hv hm =>
      obtain ⟨rfl, rfl⟩ := slot_of_write_ne hj
      exact ⟨rfl, w, rfl, hd⟩
    | _ => exact absurd rfl hj
  case widx =>
    cases hw with
    | advance => exact ⟨w, rfl, hd⟩
    | _ => exact absurd rfl hx
  case filt =>
    cases hw with
    | average f v m hv hm =>
      obtain rfl : a = f := not_imp_comm.mp (Xy.get_set_other _ · _) ha
      exact ⟨w, rfl, hd⟩
    | _ => exact absurd rfl ha
  case sums =>
    cases hw with
    | count | finish => exact ⟨w, rfl, hd⟩
    | _ => exact hs.elim (absurd rfl) (absurd rfl)
  case ref =>
    cases hw with
    | finish rx ry hx hy hn => exact ⟨hn, w, rfl, hd⟩
    | _ => exact absurd rfl hr
  case lvl =>
    cases hw with
    | classified f c r hc hr =>
      obtain rfl : a = f := by
        by_contra hne
        obtain ⟨hpos, hneg⟩ := s.lvl.setPair_other hne (classify c.toInt r.toInt (s.lvl.pos f) (s.lvl.neg f))
        exact ha.elim (absurd hpos) (absurd hneg)
      exact ⟨w, rfl, hd⟩
    | _ => exact ha.elim (absurd rfl) (absurd rfl)

/-- Settles O33: every write of a data register that may hold no value writes a value. -/
theorem validBitsStaySet : Obligations.ValidBitsStaySet := by
  unfold Obligations.ValidBitsStaySet
  intro e s t h he
  rcases (effect_of_runEvent h).sameData_or_data he with same | ⟨w, i, rfl, hd, hw⟩
  · simp [same.raw, same.win, same.filt, same.ref]
  cases hw with
  | sample a hi lo => exact ⟨fun b => Xyz.has_set _ a b _, fun _ _ => id, fun _ => id, fun _ => id⟩
  | finish rx ry hx hy hn =>
    refine ⟨fun _ => id, fun _ _ => id, fun _ => id, fun a _ => ?_⟩
    cases a <;> rfl
  | fill f v hv hm =>
    exact ⟨fun _ => id, fun a j => has_slot_after_write _ f a _ j v, fun _ => id, fun _ => id⟩
  | average f v m hv hm =>
    exact ⟨fun _ => id, fun a j => has_slot_after_write _ f a _ j v, fun a => Xy.has_set _ f a m, fun _ => id⟩
  | count | advance | classified => exact ⟨fun _ => id, fun _ _ => id, fun _ => id, fun _ => id⟩

/-! ### `RAW[Z]` -/

/-- The state with `RAW[Z]` replaced. -/
def withRawZ (z : Option Sample) (s : State) : State := { s with raw := { s.raw with z := z } }

theorem beginCycle_withRawZ (z : Option Sample) (s : State) :
    beginCycle (withRawZ z s) = withRawZ z (beginCycle s) := by
  rcases beginCycle_cases s with ⟨hz, h⟩ | ⟨hz, hx, h⟩ | ⟨hz, hx, hy, h⟩ <;>
    rw [h] <;> simp [beginCycle, seekRound, snapshot, enterLed, enter, withRawZ, *]

theorem withRawZ_get (z : Option Sample) (s : State) (f : FAxis) :
    (withRawZ z s).raw.get f.toAxis = s.raw.get f.toAxis := by
  cases f <;> rfl

theorem calRule_withRawZ (z : Option Sample) (s : State) : calRule (withRawZ z s) = withRawZ z (calRule s) := by
  simp only [calRule, withRawZ]
  split
  · by_cases hn : s.caln.toNat + 1 = Config.calN
    · simp only [hn, if_true]
      rfl
    · simp only [hn, if_false]
  · rfl

theorem pushRule_withRawZ (f : FAxis) (z : Option Sample) (s : State) :
    pushRule f (withRawZ z s) = withRawZ z (pushRule f s) := by
  simp only [pushRule, refilter, withRawZ_get]
  split
  · rfl
  · simp only [withRawZ]
    split <;> rfl

theorem clsRule_withRawZ (f : FAxis) (z : Option Sample) (s : State) :
    clsRule f (withRawZ z s) = withRawZ z (clsRule f s) := by
  simp only [clsRule, withRawZ]
  split <;> rfl

/-- The own rule of a command commutes with replacing `RAW[Z]`, but for the value `LDB Z` writes there. -/
theorem ruleOf_withRawZ (i : Instr) (z : Option Sample) (s : State) :
    ∃ z', ruleOf i (withRawZ z s) = withRawZ z' (ruleOf i s) := by
  cases i with
  | nop => exact ⟨z, rfl⟩
  | init id =>
    refine ⟨z, ?_⟩
    simp only [ruleOf, initRule]
    split <;> rfl
  | ldb a hi lo =>
    cases a with
    | X => exact ⟨z, rfl⟩
    | Y => exact ⟨z, rfl⟩
    | Z => exact ⟨_, rfl⟩
  | cal => exact ⟨z, calRule_withRawZ z s⟩
  | push a =>
    cases a with
    | X => exact ⟨z, pushRule_withRawZ .X z s⟩
    | Y => exact ⟨z, pushRule_withRawZ .Y z s⟩
    | Z => exact ⟨z, rfl⟩
  | adv => exact ⟨z, rfl⟩
  | cls a =>
    cases a with
    | X => exact ⟨z, clsRule_withRawZ .X z s⟩
    | Y => exact ⟨z, clsRule_withRawZ .Y z s⟩
    | Z => exact ⟨z, rfl⟩
  | start => exact ⟨z, beginCycle_withRawZ z { s with phase := .running }⟩

/-- Settles O29: the checks of R100 read `PHASE` only, and the own rules commute with replacing `RAW[Z]`. -/
theorem noCommandReadsTheZSample : Obligations.NoCommandReadsTheZSample := by
  unfold Obligations.NoCommandReadsTheZSample
  intro i s t z h
  obtain ⟨z', hrule⟩ := ruleOf_withRawZ i z s
  have hphase : (withRawZ z s).phase = s.phase := rfl
  have hissue : ∃ z', issue i (ruleOf i) (withRawZ z s) = withRawZ z' (issue i (ruleOf i) s) := by
    simp only [issue, hphase]
    split
    · exact ⟨z, rfl⟩
    · split
      · exact ⟨z, rfl⟩
      · split
        · exact ⟨z, rfl⟩
        · exact ⟨z', hrule⟩
  rw [exec_eq] at h
  cases h
  obtain ⟨z', hz⟩ := hissue
  exact ⟨z', (exec_eq i (withRawZ z s)).trans (congrArg _ hz)⟩

end Sys2Proof.Machine

/-! SUPPORT. The invariant of the state (spec/10_state.md R45): it holds at reset, every event keeps it, and it gives
the words of R45; the statements O58, O59 and O60. -/

namespace Sys2Proof.Machine

/-! ### Ranges (R103, R124, R143) -/

theorem unpack14_bounds (hi lo : Byte) : -8192 ≤ unpack14 hi lo ∧ unpack14 hi lo ≤ 8191 := by
  have := sampleField_lt hi lo
  unfold unpack14
  split <;> omega

/-- Narrowing a legal sample to a register gives a legal sample. -/
theorem inSampleRange_ofInt {v : Int} (h1 : -8192 ≤ v) (h2 : v ≤ 8191) : inSampleRange (BitVec.ofInt 16 v) := by
  unfold inSampleRange
  rw [toInt_ofInt_sample (by omega) (by omega)]
  exact ⟨h1, h2⟩

/-- The mean of a window of legal samples is a legal sample (R124). -/
theorem inSampleRange_mean {w : Window} {m : Sample} (h : w.mean = some m)
    (hw : ∀ i v, w.get i = some v → inSampleRange v) : inSampleRange m := by
  obtain ⟨a, b, c, d, rfl, rfl⟩ := Window.mean_eq_some h
  have ha : inSampleRange a := hw 0 a rfl
  have hb : inSampleRange b := hw 1 b rfl
  have hc : inSampleRange c := hw 2 c rfl
  have hd : inSampleRange d := hw 3 d rfl
  simp only [inSampleRange, Config.sampleMin, Config.sampleMax] at ha hb hc hd
  have hm := tdiv_bounds (a := a.toInt + b.toInt + c.toInt + d.toInt) (lo := -8192) (hi := 8191) (n := 4)
    (by omega) (by omega) (by omega) (by omega) (by omega)
  exact inSampleRange_ofInt hm.1 hm.2

/-- The mean of ten legal samples is a legal sample (R143). -/
theorem inSampleRange_meanOfSum {v : Int} (h1 : -81920 ≤ v) (h2 : v ≤ 81910) : inSampleRange (meanOfSum v) := by
  have hm := tdiv_bounds (a := v) (lo := -8192) (hi := 8191) (n := 10)
    (by omega) (by omega) (by omega) (by omega) (by omega)
  exact inSampleRange_ofInt hm.1 hm.2

/-- A write of a legal sample into one slot of one window leaves legal samples in every slot. -/
theorem inSampleRange_of_slot_write {v : Xy Window} (h : ∀ a i x, (v.get a).get i = some x → inSampleRange x)
    (f : FAxis) (i : BitVec 2) {x : Sample} (hx : inSampleRange x) :
    ∀ a j y, ((v.set f ((v.get f).set i (some x))).get a).get j = some y → inSampleRange y := by
  intro a j y hy
  by_cases hsame : ((v.set f ((v.get f).set i (some x))).get a).get j = (v.get a).get j
  · exact h a j y (hsame ▸ hy)
  · obtain ⟨rfl, rfl⟩ := slot_of_write_ne hsame
    rw [Xy.get_set_self, Window.get_set_self] at hy
    cases hy
    exact hx

/-- `T_TICK` fits the timer (R7). -/
theorem tTick_range : 1 ≤ Config.tTick ∧ Config.tTick ≤ 65535 := by
  have := Config.tTickLessOne.isLt
  unfold Config.tTick
  omega

/-- A timer loaded with a length in its range holds that length. -/
theorem timer_loaded {n : Nat} (h1 : 1 ≤ n) (h2 : n ≤ 65535) :
    1 ≤ (BitVec.ofNat 16 n).toNat ∧ (BitVec.ofNat 16 n).toNat ≤ n := by
  rw [BitVec.toNat_ofNat]
  omega

/-! ### A running engine (R36, R45 (f) and (h), R173, R183) -/

/-- The clauses of the invariant on the engine's registers, in a running stage. -/
structure RunningEngine (s : State) : Prop where
  running : s.stg.isRunning = true
  timer : 1 ≤ s.tmr.toNat ∧ s.tmr.toNat ≤ stageTicks s.stg s.snap s.k
  round : if s.stg.inRound then 1 ≤ s.k.toNat else s.k = 0
  ledOfStage : s.led = stageLed s.stg s.snap
  enabled : stageEnabled s.stg s.snap s.k = true

theorem allZero_eq_false_of_xact {l : Levels} {k : Nat} (hk : 1 ≤ k) (h : xact l k = true) : allZero l = false := by
  by_contra hz
  simp_all [allZero, xact]

theorem allZero_eq_false_of_yact {l : Levels} {k : Nat} (hk : 1 ≤ k) (h : yact l k = true) : allZero l = false := by
  by_contra hz
  simp_all [allZero, yact]

theorem roundIdle_le (l : Levels) (k : Nat) : roundIdle l k ≤ 400 := by
  rw [roundIdle_eq]
  split <;> split <;> omega

/-- A stage of round `k` found from a snapshot that is not all zero, the indicator at `ON3`, is a running engine. -/
theorem runningEngine_of_seekRound {k p : Nat} {s t : State} (h : seekRound k p s = some t) (h1 : 1 ≤ k) (h3 : k ≤ 3)
    (hled : s.led = .on3) (hz : allZero s.snap = false) : RunningEngine t := by
  have hk : (BitVec.ofNat 2 k).toNat = k := by rw [BitVec.toNat_ofNat]; omega
  rcases seekRound_cases k p s with ⟨-, hx, h'⟩ | ⟨-, -, hy, h'⟩ | ⟨-, -, hi, h'⟩ | ⟨-, -, -, h'⟩ <;>
    rw [h'] at h <;> cases h
  · exact ⟨rfl, timer_loaded (by decide) (by decide), by simpa [Stage.inRound, hk], rfl, by simpa [stageEnabled, hk]⟩
  · exact ⟨rfl, timer_loaded (by decide) (by decide), by simpa [Stage.inRound, hk], rfl, by simpa [stageEnabled, hk]⟩
  · refine ⟨rfl, ?_, by simpa [Stage.inRound, hk], hled, by simpa [stageEnabled, hk, hz]⟩
    simp only [enter_tmr, enter_stg, enter_snap, enter_k, stageTicks, hk]
    exact timer_loaded hi (by have := roundIdle_le s.snap k; omega)

/-- Every cycle begins with a running engine (R172). -/
theorem runningEngine_beginCycle (s : State) : RunningEngine (beginCycle s) := by
  rcases beginCycle_cases s with ⟨hz, h⟩ | ⟨-, hx, h⟩ | ⟨-, -, hy, h⟩ <;> rw [h]
  · exact ⟨rfl, timer_loaded tTick_range.1 tTick_range.2, rfl, rfl, hz⟩
  · exact ⟨rfl, timer_loaded (by decide) (by decide), Nat.le_refl 1, rfl, hx⟩
  · exact ⟨rfl, timer_loaded (by decide) (by decide), Nat.le_refl 1, rfl, hy⟩

theorem runningEngine_seek {k p : Nat} {s : State} (h1 : 1 ≤ k) (h3 : k ≤ 3) (hled : s.led = .on3)
    (hz : allZero s.snap = false) : RunningEngine (seek k p s) := by
  rcases seek_cases k p s with ⟨t, ht, h⟩ | ⟨-, hk, t, ht, h⟩ | ⟨-, -, h⟩ <;> rw [h]
  · exact runningEngine_of_seekRound ht h1 h3 hled hz
  · exact runningEngine_of_seekRound ht (by omega) (by simpa [Config.nRounds] using hk) hled hz
  · exact runningEngine_beginCycle s

/-- The end of a running stage leads to a running stage (R176). -/
theorem runningEngine_endStage {s : State} (h : RunningEngine s) : RunningEngine (endStage s) := by
  obtain ⟨hrun, -, hround, hled, hen⟩ := h
  have hk3 : s.k.toNat ≤ 3 := by have := s.k.isLt; omega
  unfold endStage
  cases hstg : s.stg with
  | off | halt | ackOn1 | ackOff1 | ackOn2 | ackOff2 => simp [hstg, Stage.isRunning] at hrun
  | xp =>
    rw [hstg] at hen hround
    exact ⟨rfl, timer_loaded (by decide) (by decide), hround, rfl, hen⟩
  | yp =>
    rw [hstg] at hen hround
    exact ⟨rfl, timer_loaded (by decide) (by decide), hround, rfl, hen⟩
  | xn =>
    rw [hstg] at hen hround hled
    exact runningEngine_seek hround hk3 hled (allZero_eq_false_of_xact hround hen)
  | yn =>
    rw [hstg] at hen hround hled
    exact runningEngine_seek hround hk3 hled (allZero_eq_false_of_yact hround hen)
  | ri =>
    rw [hstg] at hen hled
    simp only [stageEnabled, Bool.and_eq_true, Bool.not_eq_true'] at hen
    dsimp only
    split
    · next hlt => exact runningEngine_seek (Nat.le_add_left ..) (Nat.succ_le_of_lt hlt) hled hen.1
    · exact runningEngine_beginCycle s
  | zt =>
    exact runningEngine_beginCycle s

/-! ### The invariant holds at reset and does not speak of the environment -/

@[simp] theorem Window.get_empty (i : BitVec 2) : Window.empty.get i = none := by
  rcases index_cases i with rfl | rfl | rfl | rfl <;> rfl

/-- The windows of the reset state have no slot that holds a value. -/
theorem reset_slot (a : FAxis) (i : BitVec 2) : (State.reset.win.get a).get i = none := by
  cases a <;> exact Window.get_empty i

/-- Settles O58: no register holds a value yet, the sums and the count are 0, the engine is off and no fault is
recorded. -/
theorem invariantHoldsAtReset : Obligations.InvariantHoldsAtReset where
  rawRange := by rintro (_ | _ | _) v ⟨⟩
  winRange a i v hv := by rw [reset_slot] at hv; cases hv
  filtRange := by rintro (_ | _) v ⟨⟩
  refRange := by rintro (_ | _) v ⟨⟩
  accRange a := by cases a <;> decide
  calnRange := by decide
  filtIsMean a := by cases a <;> rfl
  refIsMean a := by cases a <;> rfl
  countDone := by decide
  countOpen := by decide
  rawHeld := by decide
  haltedFault := by decide
  haltedStage := by decide
  runningStage := by decide
  ackPhase := by decide
  offEarly := by decide
  levelsEarly := by decide
  timer := rfl
  round := rfl
  ledOfStage := rfl
  enabled := rfl
  cause := rfl
  fresh _ := rfl

theorem inv_withEnv {s : State} (h : Inv s) (e : Env) : Inv { s with env := e } :=
  { h with fresh := fun hp => by rw [h.fresh hp] }

theorem inv_resetEvent (s : State) : Inv (resetEvent s) := inv_withEnv invariantHoldsAtReset s.env

/-! ### Every event keeps the invariant -/

/-- Fault entry stops the engine and records its cause (R214). -/
theorem inv_raise {s : State} (h : Inv s) {c : FaultCode} {w : Word} (hc : c ≠ .none) (cause : causeRecorded c w) :
    Inv (raise c w s) :=
  { h with
    countDone := by simp
    countOpen := by simp
    rawHeld := by simp
    haltedFault := by simp [hc]
    haltedStage := by simp
    runningStage := by simp [Stage.isRunning]
    ackPhase := by simp [Stage.isAck]
    offEarly := by simp
    levelsEarly := by simp
    timer := rfl
    round := rfl
    ledOfStage := rfl
    enabled := rfl
    cause := cause
    fresh := by simp }

/-- A block that is not halted has raised no fault (R45 (e)). -/
theorem Inv.fault_eq_none {s : State} (h : Inv s) (hp : s.phase ≠ .halted) : s.fault = .none :=
  not_not.mp (mt h.haltedFault.mpr hp)

theorem inv_arm {s : State} (h : Inv s) (hp : s.phase = .reset) : Inv { s with phase := .ready } :=
  { h with
    countDone := by simp
    countOpen := fun _ => h.countOpen (.inl hp)
    rawHeld := by simp
    haltedFault := by simpa [hp] using h.haltedFault
    haltedStage := by simpa [hp] using h.haltedStage
    runningStage := by simpa [hp] using h.runningStage
    ackPhase := by simpa [hp] using h.ackPhase
    offEarly := fun _ => h.offEarly (.inl hp)
    levelsEarly := fun _ => h.levelsEarly (.inl hp)
    fresh := by simp }

/-- A running engine in place of the engine's registers, from a calibrated or running block, keeps the invariant. -/
theorem inv_of_runningEngine {s t : State} (h : Inv s) (hp : s.phase = .calibrated ∨ s.phase = .running)
    (ht : SameButEngine { s with phase := .running } t) (he : RunningEngine t) : Inv t := by
  obtain ⟨hrun, htimer, hround, hled, hen⟩ := he
  have hphase : t.phase = .running := ht.phase_eq
  have htimed : t.stg.isTimed = true := by simp [Stage.isTimed, hrun]
  have hack : t.stg.isAck = false := by cases hg : t.stg <;> simp_all [Stage.isRunning, Stage.isAck]
  have hhalt : t.stg ≠ .halt := by rintro hg; simp [hg, Stage.isRunning] at hrun
  have hfault : s.fault = .none := h.fault_eq_none (by rcases hp with hp | hp <;> simp [hp])
  have htimer' : if t.stg.isTimed then 1 ≤ t.tmr.toNat ∧ t.tmr.toNat ≤ stageTicks t.stg t.snap t.k else t.tmr = 0 := by
    rwa [if_pos htimed]
  unfold SameButEngine at ht
  rw [ht]
  exact { h with
    countDone := fun _ => h.countDone hp
    countOpen := by simp
    rawHeld := fun _ => h.rawHeld hp
    haltedFault := by simp [hfault]
    haltedStage := by simp [hhalt]
    runningStage := by simp [hrun]
    ackPhase := by simp [hack]
    offEarly := by simp
    levelsEarly := by simp
    timer := htimer'
    round := hround
    ledOfStage := hled
    enabled := hen
    fresh := by simp }

/-- The rest of the acknowledgement, and the engine off after it, in a calibrated block (R175, R177). -/
theorem inv_enterSame_ack {s : State} (h : Inv s) (hp : s.phase = .calibrated) (hk : s.k = 0) {g : Stage}
    (hg : g.isAck = true ∨ g = .off) : Inv (enterSame g (stageTicks g s.snap s.k) (stageLed g s.snap) s) := by
  obtain ⟨hhalt, hrun, hround, hen⟩ :
      g ≠ .halt ∧ g.isRunning = false ∧ g.inRound = false ∧ stageEnabled g s.snap s.k = true := by
    cases g <;> simp_all [Stage.isAck, Stage.isRunning, Stage.inRound, stageEnabled]
  refine { h with
    haltedStage := by simp [hp, hhalt]
    runningStage := by simp [hp, hrun]
    ackPhase := fun _ => hp
    offEarly := by simp [hp]
    timer := ?timer
    round := by simp [hround, hk]
    ledOfStage := rfl
    enabled := hen
    fresh := by simp [hp] }
  rcases hg with hg | rfl
  · have hlen : stageTicks g s.snap s.k = Config.tAck := by cases g <;> simp_all [Stage.isAck, stageTicks]
    simp only [enterSame_stg, enterSame_tmr, enterSame_snap, enterSame_k, Stage.isTimed, hg, Bool.true_or, if_true, hlen]
    exact timer_loaded (by decide) (by decide)
  · rfl

theorem inv_endStage_ack {s : State} (h : Inv s) (hack : s.stg.isAck = true) : Inv (endStage s) := by
  have hp : s.phase = .calibrated := h.ackPhase hack
  have hk : s.k = 0 := by
    have hround := h.round
    rwa [if_neg (by cases hg : s.stg <;> simp_all [Stage.isAck, Stage.inRound])] at hround
  unfold endStage
  cases hg : s.stg with
  | ackOn1 => exact inv_enterSame_ack h hp hk (g := .ackOff1) (.inl rfl)
  | ackOff1 => exact inv_enterSame_ack h hp hk (g := .ackOn2) (.inl rfl)
  | ackOn2 => exact inv_enterSame_ack h hp hk (g := .ackOff2) (.inl rfl)
  | ackOff2 => exact inv_enterSame_ack h hp hk (g := .off) (.inr rfl)
  | off | xp | xn | yp | yn | ri | zt | halt => simp [hg, Stage.isAck] at hack

theorem inv_endStage_running {s : State} (h : Inv s) (hrun : s.stg.isRunning = true) : Inv (endStage s) := by
  have hp : s.phase = .running := h.runningStage.mpr hrun
  have hs : { s with phase := .running } = s := by rw [← hp]
  have htimer := h.timer
  rw [if_pos (by simp [Stage.isTimed, hrun])] at htimer
  have he : RunningEngine s := ⟨hrun, htimer, h.round, h.ledOfStage, h.enabled⟩
  exact inv_of_runningEngine h (.inr hp) (by rw [hs]; exact endStage_sameButEngine s) (runningEngine_endStage he)

theorem inv_tick {s : State} (h : Inv s) : Inv (tick s) := by
  rcases tick_cases s with ⟨-, h'⟩ | ⟨hoff, hhalt, ht, h'⟩ | ⟨hoff, hhalt, -, h'⟩ <;> rw [h']
  · exact h
  · have htimed : s.stg.isTimed = true := by
      cases hg : s.stg <;> simp_all [Stage.isTimed, Stage.isAck, Stage.isRunning]
    have htimer := h.timer
    rw [if_pos htimed] at htimer
    have hone : (s.tmr - 1).toNat = s.tmr.toNat - 1 := by bv_omega
    exact { h with
      timer := by simp only [htimed, if_true, hone]; omega
      fresh := fun hp => absurd (h.offEarly (.inl hp)).1 hoff }
  · cases hrun : s.stg.isRunning with
    | true => exact inv_endStage_running h hrun
    | false =>
      exact inv_endStage_ack h (by cases hg : s.stg <;> simp_all [Stage.isAck, Stage.isRunning])

/-! ### The data writes keep the invariant -/

/-- The sum of a `CAL` fits its register and stays in the range of its count (R143). -/
theorem calSum_exact {s : State} (h : Inv s) (hn : s.caln.toNat < 10) (a : FAxis) {r : Sample}
    (hr : inSampleRange r) :
    (BitVec.ofInt 18 ((s.acc.get a).toInt + r.toInt)).toInt = (s.acc.get a).toInt + r.toInt
      ∧ Config.sampleMin * ((s.caln.toNat + 1 : Nat) : Int) ≤ (s.acc.get a).toInt + r.toInt
      ∧ (s.acc.get a).toInt + r.toInt ≤ Config.sampleMax * ((s.caln.toNat + 1 : Nat) : Int) := by
  have hacc := h.accRange a
  simp only [inSampleRange, Config.sampleMin, Config.sampleMax] at hacc hr ⊢
  exact ⟨toInt_ofInt_acc (by omega) (by omega), by omega, by omega⟩

theorem counted_caln {s : State} (hn : s.caln.toNat < 10) (rx ry : Sample) :
    (counted rx ry s).caln.toNat = s.caln.toNat + 1 := by
  simp only [counted, BitVec.toNat_ofNat]
  omega

theorem counted_accRange {s : State} (h : Inv s) (hn : s.caln.toNat < 10) {rx ry : Sample} (hx : inSampleRange rx)
    (hy : inSampleRange ry) (a : FAxis) :
    Config.sampleMin * ((counted rx ry s).caln.toNat : Int) ≤ ((counted rx ry s).acc.get a).toInt
      ∧ ((counted rx ry s).acc.get a).toInt ≤ Config.sampleMax * ((counted rx ry s).caln.toNat : Int) := by
  rw [counted_caln hn]
  cases a with
  | X =>
    obtain ⟨hexact, hbounds⟩ := calSum_exact h hn .X hx
    exact hexact ▸ hbounds
  | Y =>
    obtain ⟨hexact, hbounds⟩ := calSum_exact h hn .Y hy
    exact hexact ▸ hbounds

theorem inv_counted {s : State} (h : Inv s) (hp : s.phase = .ready) {rx ry : Sample} (hx : inSampleRange rx)
    (hy : inSampleRange ry) (hlt : s.caln.toNat + 1 ≠ 10) : Inv (counted rx ry s) := by
  have hn : s.caln.toNat < 10 := h.countOpen (.inr hp)
  have hcaln := counted_caln hn rx ry
  have hopen : (counted rx ry s).caln.toNat < Config.calN := by simp only [hcaln, Config.calN]; omega
  exact { h with
    accRange := counted_accRange h hn hx hy
    calnRange := hopen.le
    refIsMean := fun a => by
      rw [if_neg hopen.ne]
      exact (h.refIsMean a).trans (if_neg (Nat.ne_of_lt hn))
    countDone := by simp [counted, hp]
    countOpen := fun _ => hopen
    fresh := by simp [counted, hp] }

/-- The tenth `CAL`: both references, the phase and the acknowledgement (R140, R141). -/
theorem inv_finish {s : State} (h : Inv s) (hp : s.phase = .ready) {rx ry : Sample} (hrx : s.raw.x = some rx)
    (hry : s.raw.y = some ry) (hx : inSampleRange rx) (hy : inSampleRange ry) (hten : s.caln.toNat + 1 = 10) :
    Inv (ackStart { counted rx ry s with
      ref := ⟨some (meanOfSum (s.acc.x.toInt + rx.toInt)), some (meanOfSum (s.acc.y.toInt + ry.toInt))⟩
      phase := .calibrated }) := by
  have hn : s.caln.toNat < 10 := h.countOpen (.inr hp)
  have hcaln : (counted rx ry s).caln.toNat = Config.calN := (counted_caln hn rx ry).trans hten
  obtain ⟨hxexact, hxlo, hxhi⟩ := calSum_exact h hn .X hx
  obtain ⟨hyexact, hylo, hyhi⟩ := calSum_exact h hn .Y hy
  rw [hten] at hxlo hxhi hylo hyhi
  refine { h with
    refRange := ?refRange
    accRange := counted_accRange h hn hx hy
    calnRange := hcaln.le
    refIsMean := ?refIsMean
    countDone := fun _ => hcaln
    countOpen := by simp [ackStart]
    rawHeld := fun _ => ⟨by simp [ackStart, counted, hrx, has], by simp [ackStart, counted, hry, has]⟩
    haltedFault := by simp [ackStart, counted, h.fault_eq_none, hp]
    haltedStage := by simp [ackStart]
    runningStage := by simp [ackStart, Stage.isRunning]
    ackPhase := fun _ => rfl
    offEarly := by simp [ackStart]
    levelsEarly := fun _ => h.levelsEarly (.inr (.inl hp))
    timer := timer_loaded (by decide) (by decide)
    round := rfl
    ledOfStage := rfl
    enabled := rfl
    fresh := by simp [ackStart] }
  case refRange =>
    rintro (_ | _) v ⟨⟩
    · exact inSampleRange_meanOfSum hxlo hxhi
    · exact inSampleRange_meanOfSum hylo hyhi
  case refIsMean =>
    intro a
    refine Eq.trans ?_ (if_pos hcaln).symm
    cases a with
    | X => exact congrArg (fun v => some (meanOfSum v)) hxexact.symm
    | Y => exact congrArg (fun v => some (meanOfSum v)) hyexact.symm

theorem inv_sample {s : State} (h : Inv s) (hp : s.phase ≠ .reset) (a : Axis) {v : Sample} (hv : inSampleRange v) :
    Inv { s with raw := s.raw.set a (some v) } := by
  refine { h with
    rawRange := ?rawRange
    rawHeld := fun hp => ⟨Xyz.has_set s.raw a .X v (h.rawHeld hp).1, Xyz.has_set s.raw a .Y v (h.rawHeld hp).2⟩
    fresh := fun hreset => absurd hreset hp }
  intro b x hb
  by_cases hba : b = a
  · subst hba
    rw [Xyz.get_set_self] at hb
    cases hb
    exact hv
  · rw [Xyz.get_set_other s.raw hba] at hb
    exact h.rawRange b x hb

/-- A push that leaves a slot of its window empty: `FILT` held no value before either (R121). -/
theorem inv_fill {s : State} (h : Inv s) (hp : s.phase ≠ .reset) {f : FAxis} {v : Sample}
    (hv : inSampleRange v) (hm : ((s.win.get f).set s.widx (some v)).mean = none) :
    Inv { s with win := s.win.set f ((s.win.get f).set s.widx (some v)) } := by
  refine { h with
    winRange := inSampleRange_of_slot_write h.winRange f s.widx hv
    filtIsMean := fun a => ?_
    fresh := fun hreset => absurd hreset hp }
  by_cases ha : a = f
  · subst ha
    rw [Xy.get_set_self, hm]
    exact (h.filtIsMean a).trans (Window.mean_of_set_eq_none hm)
  · rw [Xy.get_set_other s.win ha]
    exact h.filtIsMean a

/-- A push that completes its window: `FILT` is the mean of it (R121). -/
theorem inv_average {s : State} (h : Inv s) (hp : s.phase ≠ .reset) {f : FAxis}
    {v m : Sample} (hv : inSampleRange v) (hm : ((s.win.get f).set s.widx (some v)).mean = some m) :
    Inv { s with
      win := s.win.set f ((s.win.get f).set s.widx (some v))
      filt := s.filt.set f (some m) } := by
  have hslots := inSampleRange_of_slot_write h.winRange f s.widx hv
  refine { h with
    winRange := hslots
    filtRange := fun a x hx => ?_
    filtIsMean := fun a => ?_
    fresh := fun hreset => absurd hreset hp }
  · by_cases ha : a = f
    · subst ha
      rw [Xy.get_set_self] at hx
      cases hx
      exact inSampleRange_mean hm fun i y hy => hslots a i y (by rwa [Xy.get_set_self])
    · rw [Xy.get_set_other s.filt ha] at hx
      exact h.filtRange a x hx
  · by_cases ha : a = f
    · subst ha
      rw [Xy.get_set_self, Xy.get_set_self, hm]
    · rw [Xy.get_set_other s.win ha, Xy.get_set_other s.filt ha]
      exact h.filtIsMean a

theorem inv_advRule {s : State} (h : Inv s) (hp : s.phase ≠ .reset) : Inv (advRule s) :=
  { h with fresh := fun hreset => absurd hreset hp }

theorem inv_withLevels {s : State} (h : Inv s) (hp : s.phase = .running) (l : Levels) : Inv { s with lvl := l } :=
  { h with
    levelsEarly := by simp [hp]
    fresh := by simp [hp] }

/-- Every command that writes data is illegal in `PH_RESET` (R100). -/
theorem DataEffect.phase_ne_reset {i : Instr} {s t : State} (hw : DataEffect s i t) (hl : legal i s.phase = true) :
    s.phase ≠ .reset := by
  intro hp
  rw [hp] at hl
  cases hw <;> simp [legal] at hl

theorem inv_dataEffect {i : Instr} {s t : State} (h : Inv s) (hl : legal i s.phase = true)
    (hw : DataEffect s i t) : Inv t := by
  have hp : s.phase ≠ .reset := hw.phase_ne_reset hl
  cases hw with
  | sample a hi lo =>
    obtain ⟨hlo, hhi⟩ := unpack14_bounds hi lo
    exact inv_sample h hp a (inSampleRange_ofInt hlo hhi)
  | count rx ry hx hy hn =>
    exact inv_counted h (legal_cal_iff.mp hl) (h.rawRange .X rx hx) (h.rawRange .Y ry hy) hn
  | finish rx ry hx hy hn =>
    exact inv_finish h (legal_cal_iff.mp hl) hx hy (h.rawRange .X rx hx) (h.rawRange .Y ry hy) hn
  | fill f v hv hm => exact inv_fill h hp (h.rawRange _ v hv) hm
  | average f v m hv hm => exact inv_average h hp (h.rawRange _ v hv) hm
  | advance => exact inv_advRule h hp
  | classified => exact inv_withLevels h (legal_cls_iff.mp hl) _

/-! ### The statements -/

/-- Every event keeps the invariant. -/
theorem inv_runEvent {e : Event} {s t : State} (h : Inv s) (he : runEvent e s = .next t) : Inv t := by
  cases effect_of_runEvent he with
  | reset => exact inv_resetEvent s
  | tick => exact inv_tick h
  | read a => exact inv_withEnv h _
  | nothing => exact h
  | fault w c hp hc cause => exact inv_raise h hc cause
  | arm w hd hp => exact inv_arm h hp
  | start w hd hp =>
    exact inv_of_runningEngine h (.inl hp) (beginCycle_sameButEngine _) (runningEngine_beginCycle _)
  | data w i _ hd hl hw => exact inv_dataEffect h hl hw

/-- Settles O59: a step waits or runs one event with that event taken from the agenda, of which the invariant does not
speak, and every event keeps the invariant. -/
theorem stepKeepsTheInvariant : Obligations.StepKeepsTheInvariant := by
  unfold Obligations.StepKeepsTheInvariant
  intro s t h hstep
  rcases step_cases hstep with ⟨-, rfl⟩ | ⟨e, rest, -, -, he⟩
  · exact h
  · exact inv_runEvent (inv_withEnv h _) he

theorem stageTicks_le (g : Stage) (l : Levels) (k : BitVec 2) : stageTicks g l k ≤ max 400 Config.tTick := by
  cases g with
  | ri => exact (roundIdle_le l k.toNat).trans (Nat.le_max_left ..)
  | zt => exact Nat.le_max_right ..
  | off | halt => exact Nat.zero_le _
  | ackOn1 | ackOff1 | ackOn2 | ackOff2 => exact (by decide : Config.tAck ≤ 400).trans (Nat.le_max_left ..)
  | xp | yp => exact (by decide : Config.tPulse ≤ 400).trans (Nat.le_max_left ..)
  | xn | yn => exact (by decide : Config.tNeutral ≤ 400).trans (Nat.le_max_left ..)

/-- Settles O60: R45 (b) and (c) from the values the invariant gives `FILT` and `REF`, the rest clause by clause. -/
theorem invariantGivesRule45 : Obligations.InvariantGivesRule45 := by
  unfold Obligations.InvariantGivesRule45
  intro s h
  have hcaln : s.caln = 10 ↔ s.caln.toNat = Config.calN := BitVec.toNat_inj.symm
  have href (a : FAxis) : has (s.ref.get a) = true ↔ s.caln = 10 := by
    rw [h.refIsMean, hcaln]
    split <;> simp [has, *]
  refine ⟨fun a ha i => ?slots, ?both, href .X, fun hp => ⟨hcaln.mpr (h.countDone hp), h.rawHeld hp⟩, h.haltedFault,
    h.haltedFault.symm.trans h.haltedStage, h.runningStage.symm, h.ackPhase, fun hp => ?early, fun ht => ?timed⟩
  case slots =>
    rw [h.filtIsMean, has, Option.isSome_iff_exists] at ha
    obtain ⟨m, hm⟩ := ha
    obtain ⟨v0, v1, v2, v3, hw, -⟩ := Window.mean_eq_some hm
    rw [hw]
    rcases index_cases i with rfl | rfl | rfl | rfl <;> rfl
  case both => exact Bool.eq_iff_iff.mpr ((href .X).trans (href .Y).symm)
  case early =>
    have hlevels := h.levelsEarly (by rcases hp with hp | hp <;> simp [hp])
    exact ⟨(h.offEarly hp).1, (h.offEarly hp).2, hlevels.1⟩
  case timed =>
    have htimer := h.timer
    rw [if_pos ht] at htimer
    exact ⟨htimer.1, htimer.2.trans (stageTicks_le ..)⟩

end Sys2Proof.Machine

/-! SUPPORT. The read port, the pins, the events of a clock cycle and the held command (spec/10_state.md R37 to R42),
and the statements O50 to O54 and O57. -/

namespace Sys2Proof.Machine

/-! ### Fields of the read-port words (R39, R40) -/

/-- Each level stands at its own bits of `LVLR` and `SNAPR`. -/
theorem levelsWord_fields (l : Levels) :
    (levelsWord l).extractLsb' 0 2 = l.px ∧ (levelsWord l).extractLsb' 2 2 = l.nx
      ∧ (levelsWord l).extractLsb' 4 2 = l.py ∧ (levelsWord l).extractLsb' 6 2 = l.ny
      ∧ (levelsWord l).extractLsb' 8 24 = 0 := by
  unfold levelsWord
  refine ⟨?px, ?nx, ?py, ?ny, ?zero⟩
  all_goals repeat rw [BitVec.extractLsb'_append_eq_of_le (by decide)]
  case zero => exact BitVec.extractLsb'_zero
  all_goals rw [BitVec.extractLsb'_append_eq_of_add_le (by decide), BitVec.extractLsb'_eq_self]

theorem engineWord_fields (s : State) :
    (engineWord s).extractLsb' 0 4 = s.stg.code ∧ (engineWord s).extractLsb' 4 2 = s.k
      ∧ (engineWord s).extractLsb' 9 7 = 0 ∧ (engineWord s).extractLsb' 16 16 = s.tmr := by
  unfold engineWord
  refine ⟨?stg, ?k, ?zero, ?tmr⟩
  all_goals repeat rw [BitVec.extractLsb'_append_eq_of_le (by decide)]
  case tmr => exact BitVec.extractLsb'_eq_self
  case zero =>
    rw [BitVec.extractLsb'_append_eq_of_add_le (by decide)]
    exact BitVec.extractLsb'_zero
  all_goals rw [BitVec.extractLsb'_append_eq_of_add_le (by decide), BitVec.extractLsb'_eq_self]

theorem engineWord_led (s : State) :
    (engineWord s).getLsbD 8 = s.led.r ∧ (engineWord s).getLsbD 7 = s.led.g ∧ (engineWord s).getLsbD 6 = s.led.b := by
  simp only [engineWord, Rgb.code, BitVec.getLsbD_append]
  simp

theorem statusWord_fields (s : State) :
    (statusWord s).extractLsb' 0 3 = s.phase.code ∧ (statusWord s).extractLsb' 4 2 = s.widx
      ∧ (statusWord s).extractLsb' 21 4 = s.caln ∧ (statusWord s).extractLsb' 25 7 = 0 := by
  unfold statusWord
  refine ⟨?phase, ?widx, ?caln, ?zero⟩
  all_goals repeat rw [BitVec.extractLsb'_append_eq_of_le (by decide)]
  case zero => exact BitVec.extractLsb'_zero
  all_goals rw [BitVec.extractLsb'_append_eq_of_add_le (by decide), BitVec.extractLsb'_eq_self]

theorem statusWord_ackBusy (s : State) : (statusWord s).getLsbD 3 = s.stg.isAck := by
  simp only [statusWord, BitVec.getLsbD_append]
  simp

/-- The eight window bits (R40, `WINVX` and `WINVY`). -/
theorem statusWord_windows (s : State) (i : BitVec 2) :
    (statusWord s).getLsbD (6 + i.toNat) = has (s.win.x.get i)
      ∧ (statusWord s).getLsbD (10 + i.toNat) = has (s.win.y.get i) := by
  simp only [statusWord, BitVec.getLsbD_append]
  rcases index_cases i with rfl | rfl | rfl | rfl <;> simp [Window.get]

theorem statusWord_valid (s : State) :
    (statusWord s).getLsbD 14 = has s.filt.x ∧ (statusWord s).getLsbD 15 = has s.filt.y
      ∧ (statusWord s).getLsbD 16 = has s.raw.x ∧ (statusWord s).getLsbD 17 = has s.raw.y
      ∧ (statusWord s).getLsbD 18 = has s.raw.z
      ∧ (statusWord s).getLsbD 19 = has s.ref.x ∧ (statusWord s).getLsbD 20 = has s.ref.y := by
  simp only [statusWord, BitVec.getLsbD_append]
  simp

/-! ### The read port -/

/-- The addresses above the windows are reserved and read 0 (R39). -/
theorem readReg_reserved (s : State) {a : ReadAddr} (h : 0x18 ≤ a.toNat) : readReg a s = some 0 := by
  have hlt := a.isLt
  unfold readReg
  interval_cases a.toNat <;> rfl

/-- A read changes the model's own environment only (R41). -/
theorem readEvent_block (a : ReadAddr) (s : State) : { readEvent a s with env := s.env } = s := rfl

/-- Settles O50: the map address by address, the layouts by the fields of their words. -/
theorem readPortMap : Obligations.ReadPortMap := by
  unfold Obligations.ReadPortMap
  intro s
  obtain ⟨stg, k, zero, tmr⟩ := engineWord_fields s
  obtain ⟨r, g, b⟩ := engineWord_led s
  have hfault : readReg 0x01 s = some (s.fault.code.setWidth 32) := by
    show some (0#28 ++ s.fault.code) = _
    cases s.fault <;> rfl
  refine ⟨rfl, hfault, rfl, ⟨_, rfl, levelsWord_fields s.lvl⟩, ⟨_, rfl, levelsWord_fields s.snap⟩,
    ⟨_, rfl, stg, k, r, g, b, zero, tmr⟩, rfl, rfl, rfl, rfl, rfl, rfl, rfl, rfl, rfl, rfl, fun i => ?winx,
    fun i => ?winy, fun a => readReg_reserved s, fun a => ⟨_, rfl, readEvent_block a s⟩⟩
  case winx => rcases index_cases i with rfl | rfl | rfl | rfl <;> rfl
  case winy => rcases index_cases i with rfl | rfl | rfl | rfl <;> rfl

/-- Settles O51: every field of `STATUS`; `REFV` is one bit twice since the invariant gives both references at once. -/
theorem statusLayout : Obligations.StatusLayout := by
  unfold Obligations.StatusLayout
  intro s
  obtain ⟨phase, widx, caln, zero⟩ := statusWord_fields s
  obtain ⟨filtx, filty, rawx, rawy, rawz, refx, refy⟩ := statusWord_valid s
  have hready : cmdReady s = !(statusWord s).getLsbD 3 := by rw [statusWord_ackBusy, cmdReady]
  have href (h : Inv s) : (statusWord s).getLsbD 19 = (statusWord s).getLsbD 20 := by
    obtain ⟨-, hboth, -⟩ := invariantGivesRule45 s h
    rw [refx, refy, hboth]
  exact ⟨phase, statusWord_ackBusy s, hready, widx, statusWord_windows s, filtx, filty, rawx, rawy, rawz, refx, refy,
    href, caln, zero⟩

/-- Settles O52: `rdData` is the register's word where it has one, else the free word of the draw. -/
theorem readReturnsAndChangesNothing : Obligations.ReadReturnsAndChangesNothing := by
  unfold Obligations.ReadReturnsAndChangesNothing
  intro a s
  refine ⟨readEvent a s, rfl, readEvent_block a s, rfl, fun w hw => ?held, fun hn => ?free⟩
  case held => simp [rdData, hw]
  case free => simp [rdData, hn]

/-! ### The pins and the events of a clock cycle -/

theorem isAck_iff {g : Stage} :
    g.isAck = true ↔ g = .ackOn1 ∨ g = .ackOff1 ∨ g = .ackOn2 ∨ g = .ackOff2 := by
  cases g <;> simp [Stage.isAck]

/-- Settles O53: a pin is its channel xor the polarity; the other two pins are decided by `FAULT` and `STG`. -/
theorem outputPins : Obligations.OutputPins := by
  unfold Obligations.OutputPins
  intro s
  refine ⟨fun hpol => ?high, fun hpol => ?low, ?fault, ?ready⟩
  case high => simp [ledPins, hpol]
  case low => simp [ledPins, hpol]
  case fault => simp [faultPin]
  case ready => rw [cmdReady, Bool.not_eq_false', isAck_iff]

/-- The events of a cycle without `rst`, each from its own input. -/
theorem mem_cycleEvents {ready first : Bool} {c : Inputs} (h : c.rst = false) (e : Event) :
    e ∈ cycleEvents ready first c ↔ (∃ a, c.rdAddr = some a ∧ e = .read a)
      ∨ (c.cmdValid = true ∧ ready = true ∧ e = .cmd c.cmd) ∨ (c.tickMs = true ∧ e = .tick) := by
  have hcmd : e ∈ (if c.cmdValid && ready then [Event.cmd c.cmd] else [])
      ↔ c.cmdValid = true ∧ ready = true ∧ e = .cmd c.cmd := by
    cases c.cmdValid <;> cases ready <;> simp
  have htick : e ∈ (if c.tickMs then [Event.tick] else []) ↔ c.tickMs = true ∧ e = .tick := by
    cases c.tickMs <;> simp
  simp only [cycleEvents, h, Bool.false_eq_true, if_false, List.mem_append]
  refine or_congr ?reads ?others
  case reads => cases c.rdAddr <;> simp
  case others =>
    cases first
    · simp only [Bool.false_eq_true, if_false, List.mem_append, hcmd, htick, or_comm]
    · simp only [if_true, List.mem_append, hcmd, htick]

/-- Settles O54: with `rst` the one event is `Reset`; else each input puts its own event in, whatever the order. -/
theorem clockCycleEvents : Obligations.ClockCycleEvents := by
  unfold Obligations.ClockCycleEvents
  intro ready first c
  refine ⟨fun h => ?reset, fun h w => ?cmd, fun h => ?tick, fun h a => ?read, fun h => ?noReset,
    fun h hv hr ht ha => ?both⟩
  case reset => simp [cycleEvents, h]
  case cmd => simp [mem_cycleEvents h]
  case tick => simp [mem_cycleEvents h]
  case read => simp [mem_cycleEvents h]
  case noReset => simp [mem_cycleEvents h]
  case both => simp [cycleEvents, h, hv, hr, ht, ha]

/-! ### The held command -/

/-- Settles O57: a port that is not ready passes over the commands at the head of the agenda, in their places, so the
event that runs is no command. -/
theorem heldCommandWaits : Obligations.HeldCommandWaits := by
  unfold Obligations.HeldCommandWaits
  intro s w hr
  refine ⟨fun ws e later he hp => ?passes, fun ws hp => ?waits, fun t rest hp hstep => ?held⟩
  case passes => exact step_of_takeEvent_some (by rw [hp, hr]; exact takeEvent_not_ready (w :: ws) he later)
  case waits => exact step_of_takeEvent_none (by rw [hp, hr]; exact takeEvent_not_ready_cmds (w :: ws))
  case held =>
    rcases step_cases hstep with ⟨-, rfl⟩ | ⟨e, left, htake, hcmd, he⟩
    · exact ⟨by rw [hp]; rfl, .inl rfl⟩
    have hhead : left.head? = some (.cmd w) := by
      rw [hp, hr, takeEvent, if_neg Bool.false_ne_true, Option.map_eq_some_iff] at htake
      obtain ⟨p, -, hpair⟩ := htake
      cases hpair
      rfl
    cases e with
    | reset => cases he; exact ⟨hhead, .inr (.inr rfl)⟩
    | cmd v => simp [hr] at hcmd
    | tick =>
      cases he
      rw [tick_env]
      exact ⟨hhead, .inr (.inl (tick_withEnv (withPending left s) s.env).symm)⟩
    | read a => cases he; exact ⟨hhead, .inl rfl⟩

end Sys2Proof.Machine

/-! SUPPORT. Where a command writes the pulse engine's registers (spec/20_memory.md R68, spec/44_pulse_engine.md R170,
spec/60_exceptions.md R214), and the statement O30. -/

namespace Sys2Proof

/-- Decoding the word of a well-formed command gives the command back: the word's fields are the command's operands
(R81, R83). -/
theorem decode_encode {i : Instr} (h : i.wellFormed = true) : decode (encode i) = .ok i := by
  cases i with
  | nop | init id | cal | adv | start => simp [encode, decode, formatN, formatI]
  | ldb a hi lo => simp [encode, decode, formatB]
  | push a | cls a => cases a <;> simp_all [encode, decode, formatA, axField, Instr.wellFormed, Axis.isFiltered]

end Sys2Proof

namespace Sys2Proof.Machine

/-- A well-formed command is the event of its word, so it does what an event of that word can do. -/
theorem effect_of_exec {i : Instr} {s t : State} (hw : i.wellFormed = true) (h : exec i s = .next t) :
    Effect s (.cmd (encode i)) t :=
  effect_of_cmdEvent (by rw [cmdEvent_of_decode_ok (decode_encode hw), h])

/-- A command that writes data leaves the engine's registers, but for the tenth `CAL`, which starts the acknowledgement
(R141, R175). -/
theorem DataEffect.engine_cases {i : Instr} {s t : State} (h : DataEffect s i t) :
    (t.stg = s.stg ∧ t.k = s.k ∧ t.tmr = s.tmr ∧ t.led = s.led ∧ t.snap = s.snap)
      ∨ (i = .cal ∧ s.caln.toNat + 1 = 10
        ∧ t.stg = .ackOn1 ∧ t.k = 0 ∧ t.tmr = 200 ∧ t.led = .on3 ∧ t.snap = s.snap) := by
  cases h with
  | finish rx ry hx hy hn => exact .inr ⟨rfl, hn, rfl, rfl, rfl, rfl, rfl⟩
  | sample | count | fill | average | advance | classified => exact .inl ⟨rfl, rfl, rfl, rfl, rfl⟩

/-- Settles O30: a command without a legal encoding is discarded or raises `ILLEGAL_COMMAND`; every other is the event
of its word, and what that event can do is one of the four cases. -/
theorem samplePathHandsOverAtThreePoints : Obligations.SamplePathHandsOverAtThreePoints := by
  unfold Obligations.SamplePathHandsOverAtThreePoints
  intro i s t h
  cases hw : i.wellFormed with
  | false =>
    rcases exec_cases h with ⟨-, rfl⟩ | ⟨hp, -, rfl⟩ | ⟨-, hwf, -⟩ | ⟨-, hwf, -⟩
    · exact .inl ⟨rfl, rfl, rfl, rfl, rfl⟩
    · exact .inr (.inr (.inr ⟨hp, rfl, rfl, rfl, rfl, rfl, rfl⟩))
    · simp [hw] at hwf
    · simp [hw] at hwf
  | true =>
    have same {j : Instr} (hd : decode (encode i) = .ok j) : i = j :=
      Except.ok.inj ((decode_encode hw).symm.trans hd)
    cases effect_of_exec hw h with
    | nothing | arm => exact .inl ⟨rfl, rfl, rfl, rfl, rfl⟩
    | fault _ c hp => exact .inr (.inr (.inr ⟨hp, rfl, rfl, rfl, rfl, rfl, rfl⟩))
    | start _ hd hp => exact .inr (.inr (.inl ⟨same hd, hp, rfl⟩))
    | data _ j _ hd hl hdata =>
      obtain rfl := same hd
      rcases hdata.engine_cases with hsame | ⟨rfl, hn, hack⟩
      · exact .inl hsame
      · exact .inr (.inl ⟨rfl, legal_cal_iff.mp hl, hn, hack⟩)

end Sys2Proof.Machine

/-! SUPPORT. How many ticks a running engine is from its next snapshot (spec/20_memory.md R73, spec/44_pulse_engine.md
R172, R176, R179), and the statement O47. -/

namespace Sys2Proof.Machine

/-! ### The beginning of a cycle forgets the engine's registers -/

@[simp] theorem beginCycle_snap (s : State) : (beginCycle s).snap = s.lvl := by
  rcases beginCycle_cases s with ⟨-, h⟩ | ⟨-, -, h⟩ | ⟨-, -, -, h⟩ <;> rw [h] <;> rfl

/-- `pe_begin_cycle` writes all five registers of the engine and reads none of them (R172). -/
theorem SameButEngine.beginCycle_eq {s t : State} (h : SameButEngine s t) : beginCycle t = beginCycle s := by
  unfold SameButEngine at h
  rw [h]
  rcases beginCycle_cases s with ⟨hz, h'⟩ | ⟨hz, hx, h'⟩ | ⟨hz, hx, hy, h'⟩ <;> rw [h']
  · simp [beginCycle, hz, snapshot, enterLed, enter]
  · simp [beginCycle, hz, seekRound, hx, snapshot, enterLed, enter]
  · simp [beginCycle, hz, seekRound, hx, hy, snapshot, enterLed, enter]

/-! ### The ticks left of a cycle -/

/-- The ticks of round `k` from its place `p` on: 0 before the X pulse, 1 before the Y pulse, 2 before the idle
remainder (R173). -/
def roundTicksFrom (l : Levels) (k p : Nat) : Nat :=
  (if p = 0 ∧ xact l k = true then 200 else 0) + (if p ≤ 1 ∧ yact l k = true then 200 else 0) + roundIdle l k

/-- The ticks of the rounds after round `k` (R179). -/
def laterRoundTicks (k : Nat) : Nat := 400 * (3 - k)

/-- The ticks of the cycle that follow a stage of a running engine. -/
def ticksAfterStage (g : Stage) (l : Levels) (k : Nat) : Nat :=
  match g with
  | .xp => 100 + roundTicksFrom l k 1 + laterRoundTicks k
  | .xn => roundTicksFrom l k 1 + laterRoundTicks k
  | .yp => 100 + roundTicksFrom l k 2 + laterRoundTicks k
  | .yn => roundTicksFrom l k 2 + laterRoundTicks k
  | .ri => laterRoundTicks k
  | _ => 0

/-- The ticks a running engine is from the end of its cycle. -/
def cycleTicksLeft (s : State) : Nat := s.tmr.toNat + ticksAfterStage s.stg s.snap s.k.toNat

/-! ### What a round has left before each thing a search can find in it -/

theorem roundTicksFrom_xPulse {l : Levels} {k : Nat} (hx : xact l k = true) :
    roundTicksFrom l k 0 = 200 + roundTicksFrom l k 1 := by
  simp [roundTicksFrom, hx, Nat.add_assoc]

theorem roundTicksFrom_yPulse {l : Levels} {k p : Nat} (hp : p ≤ 1) (hx : p = 0 → xact l k = false)
    (hy : yact l k = true) : roundTicksFrom l k p = 200 + roundTicksFrom l k 2 := by
  have hnone : ¬(p = 0 ∧ xact l k = true) := not_and.mpr fun h0 => by simp [hx h0]
  simp [roundTicksFrom, hnone, hp, hy]

theorem roundTicksFrom_idle {l : Levels} {k p : Nat} (hx : p = 0 → xact l k = false) (hy : p ≤ 1 → yact l k = false) :
    roundTicksFrom l k p = roundIdle l k := by
  have hnoX : ¬(p = 0 ∧ xact l k = true) := not_and.mpr fun h0 => by simp [hx h0]
  have hnoY : ¬(p ≤ 1 ∧ yact l k = true) := not_and.mpr fun h0 => by simp [hy h0]
  simp [roundTicksFrom, hnoX, hnoY]

/-- A round lasts `T_ROUND` ticks (R179). -/
theorem roundTicksFrom_zero (l : Levels) (k : Nat) : roundTicksFrom l k 0 = 400 := by
  rw [roundTicksFrom, roundIdle_eq]
  cases xact l k <;> cases yact l k <;> rfl

theorem roundTicksFrom_one_le {l : Levels} {k : Nat} (hx : xact l k = true) : roundTicksFrom l k 1 ≤ 200 := by
  have := roundTicksFrom_xPulse hx
  have := roundTicksFrom_zero l k
  omega

theorem roundTicksFrom_two_le {l : Levels} {k : Nat} (hy : yact l k = true) : roundTicksFrom l k 2 ≤ 200 := by
  rw [roundTicksFrom_idle (p := 2) (by omega) (by omega), roundIdle_eq, if_pos hy, if_pos hy]
  split <;> decide

/-! ### A search passes over no tick -/

theorem cycleTicksLeft_enter {g : Stage} {k n : Nat} (s : State) (hk : k ≤ 3) (hn : n ≤ 400) :
    cycleTicksLeft (enter g k n s) = n + ticksAfterStage g s.snap k := by
  have hk4 : k % 4 = k := by omega
  have hn16 : n % 65536 = n := by omega
  simp [cycleTicksLeft, hk4, hn16]

theorem cycleTicksLeft_enterLed {g : Stage} {k n : Nat} (c : Rgb) (s : State) (hk : k ≤ 3) (hn : n ≤ 400) :
    cycleTicksLeft (enterLed g k n c s) = n + ticksAfterStage g s.snap k :=
  cycleTicksLeft_enter s hk hn

/-- The stage found within a round leaves what the round had left from the place of the search. -/
theorem cycleTicksLeft_seekRound {k p : Nat} {s t : State} (h : seekRound k p s = some t) (hk : k ≤ 3) :
    cycleTicksLeft t = roundTicksFrom s.snap k p + laterRoundTicks k := by
  rcases seekRound_cases k p s with ⟨rfl, hx, h'⟩ | ⟨hp, hx, hy, h'⟩ | ⟨hx, hy, -, h'⟩ | ⟨-, -, -, h'⟩ <;>
    rw [h'] at h <;> cases h
  · rw [cycleTicksLeft_enterLed _ s hk (by decide), roundTicksFrom_xPulse hx, Config.tPulse, ticksAfterStage]
    omega
  · rw [cycleTicksLeft_enterLed _ s hk (by decide), roundTicksFrom_yPulse hp hx hy, Config.tPulse, ticksAfterStage]
    omega
  · rw [cycleTicksLeft_enter s hk (roundIdle_le ..), roundTicksFrom_idle hx hy, ticksAfterStage]

theorem roundTicksFrom_of_seekRound_none {k p : Nat} {s : State} (h : seekRound k p s = none) :
    roundTicksFrom s.snap k p = 0 := by
  rcases seekRound_cases k p s with ⟨-, -, h'⟩ | ⟨-, -, -, h'⟩ | ⟨-, -, -, h'⟩ | ⟨hp, hx, hy, -⟩
  · simp [h'] at h
  · simp [h'] at h
  · simp [h'] at h
  · rw [roundTicksFrom_idle (by omega) (by omega), roundIdle_eq, if_pos hx, if_pos hy]

/-- `t` is `n` ticks from the end of the cycle of `s`; where none are left the next cycle has begun. -/
def LeavesTicks (s t : State) (n : Nat) : Prop := (n = 0 ∧ t = beginCycle s) ∨ cycleTicksLeft t = n

theorem leavesTicks_seek {k p : Nat} (s : State) (hk : k ≤ 3) :
    LeavesTicks s (seek k p s) (roundTicksFrom s.snap k p + laterRoundTicks k) := by
  rcases seek_cases k p s with ⟨t, ht, h⟩ | ⟨hnone, hlt, t, ht, h⟩ | ⟨hnone, hge, h⟩ <;> rw [h]
  · exact .inr (cycleTicksLeft_seekRound ht hk)
  · have hlt : k < 3 := hlt
    right
    rw [cycleTicksLeft_seekRound ht hlt, roundTicksFrom_zero, roundTicksFrom_of_seekRound_none hnone]
    unfold laterRoundTicks
    omega
  · have hge : ¬k < 3 := hge
    left
    rw [roundTicksFrom_of_seekRound_none hnone]
    exact ⟨by unfold laterRoundTicks; omega, rfl⟩

/-- The end of a running stage leaves the ticks that follow the stage (R176). -/
theorem leavesTicks_endStage {s : State} (hrun : s.stg.isRunning = true) :
    LeavesTicks s (endStage s) (ticksAfterStage s.stg s.snap s.k.toNat) := by
  have hk : s.k.toNat ≤ 3 := by have := s.k.isLt; omega
  unfold endStage
  cases hg : s.stg with
  | off | halt | ackOn1 | ackOff1 | ackOn2 | ackOff2 => simp [hg, Stage.isRunning] at hrun
  | xp => exact .inr (Nat.add_assoc ..).symm
  | yp => exact .inr (Nat.add_assoc ..).symm
  | xn => exact leavesTicks_seek s hk
  | yn => exact leavesTicks_seek s hk
  | zt => exact .inl ⟨rfl, rfl⟩
  | ri =>
    dsimp only [ticksAfterStage]
    split
    · next hlt =>
      have hlater : laterRoundTicks s.k.toNat
          = roundTicksFrom s.snap (s.k.toNat + 1) 0 + laterRoundTicks (s.k.toNat + 1) := by
        have hlt : s.k.toNat < 3 := hlt
        rw [roundTicksFrom_zero]
        unfold laterRoundTicks
        omega
      rw [hlater]
      exact leavesTicks_seek s hlt
    · next hge =>
      have hge : ¬s.k.toNat < 3 := hge
      exact .inl ⟨by unfold laterRoundTicks; omega, rfl⟩

/-! ### The ticks to the next cycle -/

theorem Inv.runningEngine {s : State} (h : Inv s) (hp : s.phase = .running) : RunningEngine s := by
  have hrun : s.stg.isRunning = true := h.runningStage.mp hp
  have htimer := h.timer
  rw [if_pos (by simp [Stage.isTimed, hrun])] at htimer
  exact ⟨hrun, htimer, h.round, h.ledOfStage, h.enabled⟩

/-- Every tick of a running engine is one of the ticks left of its cycle (R176). -/
theorem leavesTicks_tick {s : State} (he : RunningEngine s) : LeavesTicks s (tick s) (cycleTicksLeft s - 1) := by
  have hrun := he.running
  have hone := he.timer.1
  rcases tick_cases s with ⟨hg | hg, -⟩ | ⟨-, -, ht, h⟩ | ⟨-, -, ht, h⟩
  · simp [hg, Stage.isRunning] at hrun
  · simp [hg, Stage.isRunning] at hrun
  · have hdec : (s.tmr - 1).toNat = s.tmr.toNat - 1 := by bv_omega
    rw [h]
    right
    simp only [cycleTicksLeft, hdec]
    omega
  · have hlast : cycleTicksLeft s - 1 = ticksAfterStage s.stg s.snap s.k.toNat := by
      unfold cycleTicksLeft
      omega
    rw [h, hlast]
    exact leavesTicks_endStage hrun

theorem one_le_cycleTicksLeft {s : State} (he : RunningEngine s) : 1 ≤ cycleTicksLeft s :=
  Nat.le_add_right_of_le he.timer.1

/-- A cycle lasts three rounds or `T_TICK`, and no stage of it leaves more (R179). -/
theorem cycleTicksLeft_le {s : State} (he : RunningEngine s) : cycleTicksLeft s ≤ max 1200 Config.tTick := by
  obtain ⟨hrun, ⟨-, htimer⟩, hround, -, hen⟩ := he
  unfold cycleTicksLeft
  cases hg : s.stg with
  | off | halt | ackOn1 | ackOff1 | ackOn2 | ackOff2 => simp [hg, Stage.isRunning] at hrun
  | zt =>
    rw [hg] at htimer
    exact le_max_of_le_right htimer
  | xp | xn =>
    rw [hg] at htimer hround hen
    have hround : 1 ≤ s.k.toNat := hround
    have hrest := roundTicksFrom_one_le hen
    simp only [stageTicks, Config.tPulse, Config.tNeutral, ticksAfterStage, laterRoundTicks] at htimer ⊢
    omega
  | yp | yn =>
    rw [hg] at htimer hround hen
    have hround : 1 ≤ s.k.toNat := hround
    have hrest := roundTicksFrom_two_le hen
    simp only [stageTicks, Config.tPulse, Config.tNeutral, ticksAfterStage, laterRoundTicks] at htimer ⊢
    omega
  | ri =>
    rw [hg] at htimer hround
    have hround : 1 ≤ s.k.toNat := hround
    have hidle := roundIdle_le s.snap s.k.toNat
    simp only [stageTicks, ticksAfterStage, laterRoundTicks] at htimer ⊢
    omega

/-- After the ticks left of its cycle a running block has begun the next, with the levels of now. -/
theorem ticks_cycleTicksLeft {s : State} (h : Inv s) (hp : s.phase = .running) :
    ticks (cycleTicksLeft s) s = beginCycle s := by
  induction hn : cycleTicksLeft s generalizing s with
  | zero => have := one_le_cycleTicksLeft (h.runningEngine hp); omega
  | succ n ih =>
    have hsame := tick_sameButEngine s
    have htick := leavesTicks_tick (h.runningEngine hp)
    rw [hn, Nat.add_sub_cancel] at htick
    rcases htick with ⟨rfl, hbegin⟩ | hleft
    · exact hbegin
    · rw [ticks_succ, ih (inv_tick h) (hsame.phase_eq.trans hp) hleft, hsame.beginCycle_eq]

/-- Settles O47: the number of ticks is what the running cycle has left. -/
theorem stalenessIsBounded : Obligations.StalenessIsBounded := by
  unfold Obligations.StalenessIsBounded
  intro s h hp
  have he := h.runningEngine hp
  have hend := ticks_cycleTicksLeft h hp
  exact ⟨cycleTicksLeft s, one_le_cycleTicksLeft he, cycleTicksLeft_le he, hend, by rw [hend, beginCycle_snap]⟩

end Sys2Proof.Machine

/-! SUPPORT. The encoding (spec/30_encoding.md R80 to R88): which words decode, row by row of the opcode map and field
by field, the sample literal, and the statements O1, O2, O3, O4, O5 and O7. -/

namespace Sys2Proof

/-! ### The words that decode (R81, R85) -/

/-- The legal words are the words of the well-formed commands, one for each. -/
theorem decode_eq_ok_iff {w : Word} {i : Instr} : decode w = .ok i ↔ i.wellFormed = true ∧ w = encode i := by
  constructor
  · exact fun h => ⟨wellFormed_of_decode h, (encode_of_decode h).symm⟩
  · rintro ⟨hw, rfl⟩
    exact decode_encode hw

/-! ### The illegal words of each format (R84) -/

theorem formatN_error_iff {i : Instr} {w : Word} :
    (∃ e, formatN i w = .error e) ↔ fieldAx w ≠ 0 ∨ fieldHi w ≠ 0 ∨ fieldLo w ≠ 0 := by
  unfold formatN
  split_ifs <;> simp_all

theorem formatI_error_iff {f : Byte → Instr} {w : Word} :
    (∃ e, formatI f w = .error e) ↔ fieldAx w ≠ 0 ∨ fieldHi w ≠ 0 := by
  unfold formatI
  split_ifs <;> simp_all

theorem ax_unfiltered_iff {x : BitVec 2} : x = 2 ∨ x = 3 ↔ x ≠ 0 ∧ x ≠ 1 := by
  revert x
  decide

theorem formatA_error_iff {f : Axis → Instr} {w : Word} :
    (∃ e, formatA f w = .error e) ↔ (fieldAx w = 2 ∨ fieldAx w = 3) ∨ fieldHi w ≠ 0 ∨ fieldLo w ≠ 0 := by
  rw [ax_unfiltered_iff]
  unfold formatA
  split_ifs <;> simp_all

/-- The axes are the values of `AX` but 3 (R80). -/
theorem exists_axField_iff {x : BitVec 2} : (∃ a, x = axField a) ↔ x ≠ 3 := by
  constructor
  · rintro ⟨a, rfl⟩
    cases a <;> decide
  · intro h
    rcases Machine.index_cases x with rfl | rfl | rfl | rfl
    · exact ⟨.X, rfl⟩
    · exact ⟨.Y, rfl⟩
    · exact ⟨.Z, rfl⟩
    · exact absurd rfl h

theorem formatB_error_iff {f : Axis → Byte → Byte → Instr} {w : Word} :
    (∃ e, formatB f w = .error e) ↔ fieldAx w = 3 := by
  by_cases h3 : fieldAx w = 3
  · exact iff_of_true ⟨.axOutOfRange, by rw [formatB, h3]; rfl⟩ h3
  · obtain ⟨a, ha⟩ := exists_axField_iff.mpr h3
    refine iff_of_false ?_ h3
    rw [formatB, ha, axisOfField_axField]
    rintro ⟨e, ⟨⟩⟩

/-- A 4-bit opcode is one of the eight of R83 or one of the reserved ones. -/
theorem opcode_cases (o : BitVec 4) :
    o = 0 ∨ o = 1 ∨ o = 2 ∨ o = 3 ∨ o = 4 ∨ o = 5 ∨ o = 6 ∨ o = 7 ∨ 8 ≤ o.toNat := by
  revert o
  decide

theorem decode_of_reserved {w : Word} (hm : fieldMbz w = 0) (ho : 8 ≤ (fieldOpc w).toNat) :
    decode w = .error .reservedOpcode := by
  rw [decode, if_neg (not_not.mpr hm)]
  split
  case h_9 => rfl
  all_goals omega

/-! ### The words of a row of the opcode map (R83) -/

@[simp] theorem fieldOpc_and (w m : Word) : fieldOpc (w &&& m) = fieldOpc w &&& m.extractLsb' 28 4 :=
  BitVec.extractLsb'_and

@[simp] theorem fieldAx_and (w m : Word) : fieldAx (w &&& m) = fieldAx w &&& m.extractLsb' 26 2 :=
  BitVec.extractLsb'_and

@[simp] theorem fieldMbz_and (w m : Word) : fieldMbz (w &&& m) = fieldMbz w &&& m.extractLsb' 16 10 :=
  BitVec.extractLsb'_and

@[simp] theorem fieldHi_and (w m : Word) : fieldHi (w &&& m) = fieldHi w &&& m.extractLsb' 8 8 :=
  BitVec.extractLsb'_and

@[simp] theorem fieldLo_and (w m : Word) : fieldLo (w &&& m) = fieldLo w &&& m.extractLsb' 0 8 :=
  BitVec.extractLsb'_and

/-- The full mask of a field's width leaves the field. -/
@[simp] theorem and_fullMask :
    (∀ x : BitVec 4, x &&& 15#4 = x) ∧ (∀ x : BitVec 2, x &&& 3#2 = x) ∧ (∀ x : BitVec 10, x &&& 1023#10 = x)
      ∧ ∀ x : Byte, x &&& 255#8 = x :=
  ⟨fun _ => BitVec.and_allOnes, fun _ => BitVec.and_allOnes, fun _ => BitVec.and_allOnes, fun _ => BitVec.and_allOnes⟩

/-- A word is made of these fields and `MBZ = 0` when it has them. -/
theorem eq_wordOf_iff {w : Word} {o : BitVec 4} {a : BitVec 2} {h l : Byte} :
    w = wordOf o a h l ↔ fieldOpc w = o ∧ fieldAx w = a ∧ fieldMbz w = 0 ∧ fieldHi w = h ∧ fieldLo w = l := by
  constructor
  · rintro rfl
    simp
  · rintro ⟨rfl, rfl, hm, rfl, rfl⟩
    exact (wordOf_fields hm).symm

/-- The masks of `PUSH` and `CLS` keep bit 1 of `AX`, which is zero for the two filtered axes. -/
theorem and_two_eq_zero_iff {x : BitVec 2} : x &&& 2#2 = 0#2 ↔ x = axField .X ∨ x = axField .Y := by
  revert x
  decide

theorem Axis.exists_filtered_iff {p : Axis → Prop} : (∃ a, a.isFiltered = true ∧ p a) ↔ p .X ∨ p .Y := by
  constructor
  · rintro ⟨a, ha, hp⟩
    cases a with
    | X => exact .inl hp
    | Y => exact .inr hp
    | Z => cases ha
  · rintro (hp | hp)
    · exact ⟨.X, rfl, hp⟩
    · exact ⟨.Y, rfl, hp⟩

section Rows

/-! The words a row's match and mask admit, for the mask of each format (R81). -/

variable {m : String} {o : BitVec 4} {w : Word}

theorem admits_formatN :
    (OpcodeRow.mk m (wordOf o 0 0 0) 0xFFFFFFFF false).admits w = true ↔ w = wordOf o 0 0 0 := by
  simp [OpcodeRow.admits, eq_wordOf_iff]

theorem admits_formatI :
    (OpcodeRow.mk m (wordOf o 0 0 0) 0xFFFFFF00 false).admits w = true ↔ ∃ id, w = wordOf o 0 0 id := by
  simp [OpcodeRow.admits, eq_wordOf_iff]

theorem admits_formatB :
    (OpcodeRow.mk m (wordOf o 0 0 0) 0xF3FF0000 true).admits w = true
      ↔ ∃ a hi lo, w = wordOf o (axField a) hi lo := by
  simp [OpcodeRow.admits, eq_wordOf_iff, exists_axField_iff, and_assoc, and_comm]

theorem admits_formatA :
    (OpcodeRow.mk m (wordOf o 0 0 0) 0xFBFFFFFF false).admits w = true
      ↔ ∃ a : Axis, a.isFiltered = true ∧ w = wordOf o (axField a) 0 0 := by
  simp [OpcodeRow.admits, eq_wordOf_iff, Axis.exists_filtered_iff, and_two_eq_zero_iff, and_or_left, or_and_right]

end Rows

/-- A statement about some command is about one of the eight of R83. -/
theorem Instr.exists_iff {p : Instr → Prop} :
    (∃ i, p i) ↔ p .nop ∨ (∃ id, p (.init id)) ∨ (∃ a hi lo, p (.ldb a hi lo)) ∨ p .cal ∨ (∃ a, p (.push a))
      ∨ p .adv ∨ (∃ a, p (.cls a)) ∨ p .start := by
  constructor
  · rintro ⟨i, hi⟩
    cases i <;> grind
  · rintro (h | ⟨_, h⟩ | ⟨_, _, _, h⟩ | h | ⟨_, h⟩ | h | ⟨_, h⟩ | h) <;> exact ⟨_, h⟩

/-- The words of each mnemonic: the opcode and the operands its format admits (R81, R83). -/
theorem exists_decode_iff {m : String} {w : Word} :
    (∃ i, decode w = .ok i ∧ mnemonicOf i = m) ↔
      ("NOP" = m ∧ w = wordOf 0 0 0 0) ∨ ("INIT" = m ∧ ∃ id, w = wordOf 1 0 0 id)
        ∨ ("LDB" = m ∧ ∃ a hi lo, w = wordOf 2 (axField a) hi lo) ∨ ("CAL" = m ∧ w = wordOf 3 0 0 0)
        ∨ ("PUSH" = m ∧ ∃ a : Axis, a.isFiltered = true ∧ w = wordOf 4 (axField a) 0 0)
        ∨ ("ADV" = m ∧ w = wordOf 5 0 0 0)
        ∨ ("CLS" = m ∧ ∃ a : Axis, a.isFiltered = true ∧ w = wordOf 6 (axField a) 0 0)
        ∨ ("START" = m ∧ w = wordOf 7 0 0 0) := by
  simp [Instr.exists_iff, decode_eq_ok_iff, mnemonicOf, Instr.wellFormed, encode, and_comm]

theorem admits_iff_decode {r : OpcodeRow} (hr : r ∈ opcodeRows) (w : Word) :
    r.admits w = true ↔ ∃ i, decode w = .ok i ∧ mnemonicOf i = r.mnemonic := by
  rw [exists_decode_iff]
  simp only [opcodeRows, List.mem_cons, List.not_mem_nil, or_false] at hr
  rcases hr with rfl | rfl | rfl | rfl | rfl | rfl | rfl | rfl
  · exact (admits_formatN (o := 0)).trans (by simp)
  · exact (admits_formatI (o := 1)).trans (by simp)
  · exact (admits_formatB (o := 2)).trans (by simp)
  · exact (admits_formatN (o := 3)).trans (by simp)
  · exact (admits_formatA (o := 4)).trans (by simp)
  · exact (admits_formatN (o := 5)).trans (by simp)
  · exact (admits_formatA (o := 6)).trans (by simp)
  · exact (admits_formatN (o := 7)).trans (by simp)

theorem exists_row_of_instr (i : Instr) : ∃ r ∈ opcodeRows, mnemonicOf i = r.mnemonic := by
  cases i <;> simp [opcodeRows, mnemonicOf]

theorem mnemonics_distinct : opcodeRows.Pairwise (fun a b => a.mnemonic ≠ b.mnemonic) := by
  decide

/-- The decoder rejects exactly the words that match no row (R83, R84). -/
theorem decode_error_iff_no_row {w : Word} :
    (∃ e, decode w = .error e) ↔ ∀ r ∈ opcodeRows, r.admits w = false := by
  cases hd : decode w with
  | error e =>
    have hno : ∀ r ∈ opcodeRows, r.admits w = false := by
      intro r hr
      rw [Bool.eq_false_iff, ne_eq, admits_iff_decode hr, hd]
      rintro ⟨i, ⟨⟩, -⟩
    exact ⟨fun _ => hno, fun _ => ⟨e, rfl⟩⟩
  | ok i =>
    obtain ⟨r, hr, hm⟩ := exists_row_of_instr i
    have hadmits : r.admits w = true := (admits_iff_decode hr w).mpr ⟨i, hd, hm⟩
    constructor
    · rintro ⟨e, ⟨⟩⟩
    · intro h
      rw [h r hr] at hadmits
      cases hadmits

/-- No word is of two rows: it decodes to one command, and the rows have different mnemonics. -/
theorem rows_disjoint : opcodeRows.Pairwise (fun a b => ∀ w, ¬(a.admits w = true ∧ b.admits w = true)) := by
  refine mnemonics_distinct.imp_of_mem ?_
  rintro a b ha hb hne w ⟨hwa, hwb⟩
  obtain ⟨i, hi, hia⟩ := (admits_iff_decode ha w).mp hwa
  obtain ⟨j, hj, hjb⟩ := (admits_iff_decode hb w).mp hwb
  obtain rfl : i = j := Except.ok.inj (hi.symm.trans hj)
  exact hne (hia.symm.trans hjb)

/-- The illegal words, field by field (R84). -/
theorem decode_error_iff_fields {w : Word} :
    (∃ e, decode w = .error e) ↔
      (8 ≤ (fieldOpc w).toNat ∨ fieldMbz w ≠ 0
        ∨ (fieldOpc w ∈ [0, 1, 3, 5, 7] ∧ fieldAx w ≠ 0)
        ∨ (fieldOpc w ∈ [4, 6] ∧ (fieldAx w = 2 ∨ fieldAx w = 3))
        ∨ (fieldOpc w = 2 ∧ fieldAx w = 3)
        ∨ (fieldOpc w ∈ [0, 1, 3, 4, 5, 6, 7] ∧ fieldHi w ≠ 0)
        ∨ (fieldOpc w ∈ [0, 3, 4, 5, 6, 7] ∧ fieldLo w ≠ 0)) := by
  by_cases hm : fieldMbz w = 0
  · rcases opcode_cases (fieldOpc w) with ho | ho | ho | ho | ho | ho | ho | ho | ho
    · simp [decode, hm, ho, formatN_error_iff]
    · simp [decode, hm, ho, formatI_error_iff]
    · simp [decode, hm, ho, formatB_error_iff]
    · simp [decode, hm, ho, formatN_error_iff]
    · simp [decode, hm, ho, formatA_error_iff]
    · simp [decode, hm, ho, formatN_error_iff]
    · simp [decode, hm, ho, formatA_error_iff]
    · simp [decode, hm, ho, formatN_error_iff]
    · exact iff_of_true ⟨.reservedOpcode, decode_of_reserved hm ho⟩ (.inl ho)
  · exact iff_of_true ⟨.mbzNotZero, if_pos hm⟩ (.inr (.inl hm))

end Sys2Proof

namespace Sys2Proof.Machine

/-! ### The sample literal (R88) -/

theorem sampleImage_lt {v : Int} (h1 : -8192 ≤ v) (h2 : v ≤ 8191) : sampleImage v < 16384 := by
  unfold sampleImage
  split <;> omega

/-- The two bytes of a sample carry its 14-bit image. -/
theorem sampleField_pack {v : Int} (h1 : -8192 ≤ v) (h2 : v ≤ 8191) :
    sampleField (packHi v) (packLo v) = sampleImage v := by
  have hu := sampleImage_lt h1 h2
  have hlow : sampleImage v &&& 63 = sampleImage v % 64 := Nat.and_two_pow_sub_one_eq_mod _ 6
  rw [sampleField_eq, packHi, packLo, hlow, BitVec.toNat_ofNat, BitVec.toNat_ofNat, Nat.shiftRight_eq_div_pow,
    Nat.shiftLeft_eq]
  omega

/-- Reading the image as a two's-complement number gives the sample back. -/
theorem unpack14_pack {v : Int} (h1 : -8192 ≤ v) (h2 : v ≤ 8191) : unpack14 (packHi v) (packLo v) = v := by
  rw [unpack14, sampleField_pack h1 h2, sampleImage]
  split_ifs <;> omega

theorem ldbLiteral_eq_some {a : Axis} {v : Int} (h1 : -8192 ≤ v) (h2 : v ≤ 8191) :
    ldbLiteral a v = some (.ldb a (packHi v) (packLo v)) :=
  if_pos ⟨h1, h2⟩

theorem ldbLiteral_eq_none {a : Axis} {v : Int} (h : v < -8192 ∨ 8191 < v) : ldbLiteral a v = none := by
  refine if_neg ?_
  simp only [Config.sampleMin, Config.sampleMax]
  omega

/-! ### The statements -/

/-- Settles O1: the word's fields are the command's operands. -/
theorem decodeOfEncode : Obligations.DecodeOfEncode := by
  unfold Obligations.DecodeOfEncode
  exact fun _ => decode_encode

/-- Settles O2: the format of a legal word fixes every field its command does not carry. -/
theorem encodeOfDecode : Obligations.EncodeOfDecode := by
  unfold Obligations.EncodeOfDecode
  exact fun _ _ h => ⟨wellFormed_of_decode h, encode_of_decode h⟩

/-- Settles O3: twelve fixed words, each decoded. -/
theorem wordsOfTheAssemblerTable : Obligations.WordsOfTheAssemblerTable := by
  unfold Obligations.WordsOfTheAssemblerTable
  decide

/-- Settles O4: a row admits the words of its mnemonic, every command has a row, and the mnemonics differ. -/
theorem opcodeMapSelectsTheCommand : Obligations.OpcodeMapSelectsTheCommand := by
  unfold Obligations.OpcodeMapSelectsTheCommand
  exact ⟨fun w _ hr => admits_iff_decode hr w, fun _ => decode_error_iff_no_row.mpr, rows_disjoint⟩

/-- Settles O5: the rejects of each format, the rows, and what `illegal` does in each phase. -/
theorem illegalWordsAreExactlyTheReservedOnes : Obligations.IllegalWordsAreExactlyTheReservedOnes := by
  unfold Obligations.IllegalWordsAreExactlyTheReservedOnes
  refine ⟨fun _ => decode_error_iff_fields, fun _ => decode_error_iff_no_row, ?_⟩
  rintro w s ⟨e, he⟩
  rw [cmdEvent_of_decode_error he, illegal]
  exact ⟨fun hp => by rw [if_neg hp], fun hp => by rw [if_pos hp]⟩

/-- Settles O7: packing keeps the 14-bit image, and the literal's guard is the sample range. -/
theorem packThenUnpack : Obligations.PackThenUnpack := by
  unfold Obligations.PackThenUnpack
  exact ⟨fun _ h1 h2 => ⟨unpack14_pack h1 h2, fun _ => ldbLiteral_eq_some h1 h2⟩, fun _ _ => ldbLiteral_eq_none⟩

end Sys2Proof.Machine

/-! SUPPORT. The driver input (spec/40_driver_input.md R100 to R104): the reconstruction of a sample, the checks every
command word runs, `NOP`, `INIT` and `LDB`, and the statements O6, O13, O14, O15 and O16. -/

namespace Sys2Proof

/-- A word as the `|` of its fields at their places (R80). -/
theorem wordOf_eq_or (o : BitVec 4) (a : BitVec 2) (h l : Byte) :
    wordOf o a h l
      = (o.setWidth 32 <<< 28) ||| (a.setWidth 32 <<< 26) ||| (h.setWidth 32 <<< 8) ||| l.setWidth 32 := by
  apply BitVec.eq_of_getElem_eq
  intro i hi
  simp [wordOf]
  grind

theorem encode_init (id : Byte) : encode (.init id) = 0x10000000 ||| id.setWidth 32 := by
  rw [encode, wordOf_eq_or]
  simp

theorem encode_ldb (a : Axis) (hi lo : Byte) :
    encode (.ldb a hi lo)
      = 0x20000000 ||| ((axField a).setWidth 32 <<< 26) ||| (hi.setWidth 32 <<< 8) ||| lo.setWidth 32 := by
  rw [encode, wordOf_eq_or]
  rfl

end Sys2Proof

namespace Sys2Proof.Machine

/-! ### The reconstruction of a sample (R103) -/

/-- The field of `unpack14` is the 14-bit word `{hi, lo[7:2]}`. -/
theorem toNat_sampleBits (hi lo : Byte) : (hi ++ lo.extractLsb' 2 6 : BitVec 14).toNat = sampleField hi lo := by
  have hlow : lo.toNat >>> 2 < 2 ^ 6 := by
    rw [Nat.shiftRight_eq_div_pow]
    omega
  rw [BitVec.toNat_append, BitVec.extractLsb'_toNat, Nat.mod_eq_of_lt hlow, sampleField]

/-- `unpack14` is the two's-complement reading of `{hi, lo[7:2]}`. -/
theorem unpack14_eq_toInt (hi lo : Byte) : unpack14 hi lo = (hi ++ lo.extractLsb' 2 6 : BitVec 14).toInt := by
  rw [BitVec.toInt_eq_toNat_cond, toNat_sampleBits, unpack14]
  split_ifs <;> omega

/-- `unpack14` reads only the six high bits of `lo`. -/
theorem unpack14_congr (hi : Byte) {lo lo' : Byte} (h : lo.extractLsb' 2 6 = lo'.extractLsb' 2 6) :
    unpack14 hi lo = unpack14 hi lo' := by
  rw [unpack14_eq_toInt, unpack14_eq_toInt, h]

/-- The field's two parts as the shifts of R103. -/
theorem sampleField_eq_add (hi lo : Byte) : sampleField hi lo = (hi.toNat <<< 6) + (lo.toNat >>> 2) := by
  rw [sampleField_eq, Nat.shiftLeft_eq, Nat.shiftRight_eq_div_pow]

/-- Every reconstructed sample fits its register, so the narrowing of `LDB` loses nothing. -/
theorem toInt_ofInt_unpack14 (hi lo : Byte) : (BitVec.ofInt 16 (unpack14 hi lo)).toInt = unpack14 hi lo := by
  obtain ⟨hmin, hmax⟩ := unpack14_bounds hi lo
  exact toInt_ofInt_sample (by omega) (by omega)

/-! ### The phases of the other commands (R100) -/

theorem legal_nop_iff {p : Phase} : legal .nop p = true ↔ p ≠ .halted := by
  cases p <;> simp [legal]

theorem legal_ldb_iff {a : Axis} {hi lo : Byte} {p : Phase} :
    legal (.ldb a hi lo) p = true ↔ p = .ready ∨ p = .calibrated ∨ p = .running := by
  cases p <;> simp [legal]

theorem legal_push_iff {a : Axis} {p : Phase} : legal (.push a) p = true ↔ p = .calibrated ∨ p = .running := by
  cases p <;> simp [legal]

theorem legal_adv_iff {p : Phase} : legal .adv p = true ↔ p = .calibrated ∨ p = .running := by
  cases p <;> simp [legal]

/-! ### The checks of a command (R100) -/

theorem exec_halted {i : Instr} {s : State} (hp : s.phase = .halted) : exec i s = .next s := by
  rw [exec_eq, issue_halted hp]

/-- A well-formed command in a phase that does not admit it raises `SEQUENCE_ERROR`. -/
theorem exec_not_legal {i : Instr} {s : State} (hp : s.phase ≠ .halted) (hw : i.wellFormed = true)
    (hl : legal i s.phase = false) : exec i s = .next (raise .sequenceError (encode i) s) := by
  rw [exec_eq, issue_not_legal hp hw hl]

theorem cmdEvent_halted {s : State} (hp : s.phase = .halted) (w : Word) : cmdEvent w s = .next s := by
  cases hd : decode w with
  | ok i => rw [cmdEvent_of_decode_ok hd, exec_halted hp]
  | error e => rw [cmdEvent_of_decode_error hd, illegal, if_pos hp]

theorem cmdEvent_illegal {w : Word} {e : Reject} {s : State} (hp : s.phase ≠ .halted) (hd : decode w = .error e) :
    cmdEvent w s = .next (raise .illegalCommand w s) := by
  rw [cmdEvent_of_decode_error hd, illegal, if_neg hp]

/-- The word recorded is the command's own, since a legal word is its command's encoding. -/
theorem cmdEvent_not_legal {w : Word} {i : Instr} {s : State} (hp : s.phase ≠ .halted) (hd : decode w = .ok i)
    (hl : legal i s.phase = false) : cmdEvent w s = .next (raise .sequenceError w s) := by
  rw [cmdEvent_of_decode_ok hd, exec_not_legal hp (wellFormed_of_decode hd) hl, encode_of_decode hd]

/-- A command is taken from the agenda only at a ready port. -/
theorem ready_of_takeEvent_cmd {ready : Bool} {evs rest : List Event} {w : Word}
    (h : takeEvent ready evs = some (.cmd w, rest)) : ready = true := by
  cases ready with
  | true => rfl
  | false => exact absurd h takeEvent_not_ready_ne_cmd

/-! ### The statements -/

/-- Settles O6: `unpack14` is the signed reading of a 14-bit word, which has only the six high bits of `lo`. -/
theorem sampleReconstruction : Obligations.SampleReconstruction := by
  unfold Obligations.SampleReconstruction
  refine ⟨fun hi lo => ⟨?atMost, sampleField_eq_add hi lo, rfl, unpack14_eq_toInt hi lo, unpack14_bounds hi lo⟩,
    fun hi _ _ => unpack14_congr hi, ?values⟩
  case atMost => exact Nat.le_of_lt_succ (sampleField_lt hi lo)
  case values => decide

/-- Settles O13: the first check that applies ends the command, and `cmd_ready` holds commands back. -/
theorem commandsRunTheChecksInOrder : Obligations.CommandsRunTheChecksInOrder := by
  unfold Obligations.CommandsRunTheChecksInOrder
  refine ⟨fun w s => ⟨?halted, ?illegal, ?sequence, ?own⟩, fun _ => legal_nop_iff, fun _ _ => legal_init_iff,
    fun _ _ _ _ => legal_ldb_iff, fun _ => legal_cal_iff, fun _ _ => legal_push_iff, fun _ => legal_adv_iff,
    fun _ _ => legal_cls_iff, fun _ => legal_start_iff, fun _ _ _ => ready_of_takeEvent_cmd⟩
  case halted => exact fun hp => cmdEvent_halted hp w
  case illegal => exact fun hp e hd => cmdEvent_illegal hp hd
  case sequence => exact fun hp i hd hl => cmdEvent_not_legal hp hd hl
  case own => exact fun i hd _ => cmdEvent_of_decode_ok hd s

/-- Settles O14: a halted block discards `NOP`, and in every other phase its rule is the identity. -/
theorem nopChangesNothing : Obligations.NopChangesNothing := by
  unfold Obligations.NopChangesNothing
  refine ⟨by decide, fun s => ?_⟩
  by_cases hp : s.phase = .halted
  · exact exec_halted hp
  · exact exec_legal rfl (legal_nop_iff.mpr hp)

/-- Settles O15: `INIT` is legal in `PH_RESET` only, and there its rule compares the byte with `DEVICE_ID`. -/
theorem initChecksTheIdentity : Obligations.InitChecksTheIdentity := by
  unfold Obligations.InitChecksTheIdentity
  intro id s
  rw [← encode_init]
  have hexec (hp : s.phase = .reset) : exec (.init id) s = .next (initRule id s) :=
    exec_legal rfl (legal_init_iff.mpr hp)
  refine ⟨rfl, fun hp hid => ?ok, fun hp hid => ?mismatch, fun hp => ?sequence⟩
  case ok => rw [hexec hp, initRule, if_pos hid]
  case mismatch => rw [hexec hp, initRule, if_neg hid]
  case sequence =>
    obtain ⟨hreset, hhalted⟩ : s.phase ≠ .reset ∧ s.phase ≠ .halted := by rcases hp with hp | hp | hp <;> simp [hp]
    exact exec_not_legal hhalted rfl (Bool.eq_false_iff.mpr (mt legal_init_iff.mp hreset))

/-- Settles O16: the rule of `LDB` writes one component of `RAW`, and the sample fits it; `AX` = 3 makes a word of
opcode 2 illegal, and `MBZ` not zero any word. -/
theorem ldbWritesTheSample : Obligations.LdbWritesTheSample := by
  unfold Obligations.LdbWritesTheSample
  refine ⟨fun a hi lo s => ⟨encode_ldb a hi lo, fun hp => ?writes, fun hp => ?sequence⟩,
    fun w s ho hbad hp => ?illegal⟩
  case writes =>
    exact ⟨BitVec.ofInt 16 (unpack14 hi lo), toInt_ofInt_unpack14 hi lo, exec_legal rfl (legal_ldb_iff.mpr hp),
      Xyz.get_set_self .., fun b hb => Xyz.get_set_other _ hb _⟩
  case sequence => exact exec_not_legal (by simp [hp]) rfl (by rw [hp]; rfl)
  case illegal =>
    obtain ⟨e, he⟩ : ∃ e, decode w = .error e := decode_error_iff_fields.mpr (by tauto)
    exact cmdEvent_illegal hp he

end Sys2Proof.Machine

/-! SUPPORT. The moving-average filter (spec/41_filter.md R121 to R126, spec/30_encoding.md R91): the mean, what `PUSH`
and `ADV` do to a window, and the statements O8, O9, O18, O19, O35 and O36. -/

namespace Sys2Proof.Machine

/-! ### The mean (R123, R124) -/

/-- The mean reads its four values through their sum only. -/
theorem mean4_eq_tdiv_sum (a b c d : Int) : mean4 a b c d = tdiv [a, b, c, d].sum 4 := by
  simp [mean4, Config.depth, Int.add_assoc]

theorem mean4_perm {a b c d a' b' c' d' : Int} (h : [a, b, c, d].Perm [a', b', c', d']) :
    mean4 a b c d = mean4 a' b' c' d' := by
  rw [mean4_eq_tdiv_sum, mean4_eq_tdiv_sum, h.sum_eq]

/-- Narrowing the mean of four register values loses nothing. -/
theorem toInt_ofInt_mean4 (a b c d : Sample) :
    (BitVec.ofInt 16 (mean4 a.toInt b.toInt c.toInt d.toInt)).toInt = mean4 a.toInt b.toInt c.toInt d.toInt := by
  have bounds (x : Sample) : -32768 ≤ x.toInt ∧ x.toInt ≤ 32767 := by
    have := x.le_toInt
    have := x.toInt_lt
    omega
  have ha := bounds a
  have hb := bounds b
  have hc := bounds c
  have hd := bounds d
  have hm := tdiv_bounds (a := a.toInt + b.toInt + c.toInt + d.toInt) (lo := -32768) (hi := 32767) (n := 4)
    (by omega) (by omega) (by omega) (by omega) (by omega)
  exact toInt_ofInt_sample hm.1 hm.2

/-- Settles O8: the mean depends on the exact sum, and four register values have a mean that fits a register. -/
theorem meanTruncatesTowardZero : Obligations.MeanTruncatesTowardZero := by
  unfold Obligations.MeanTruncatesTowardZero
  refine ⟨fun a b c d => tdiv_eq _ 4, fun a b c d => ⟨Window.mean_full a b c d, toInt_ofInt_mean4 a b c d⟩,
    fun _ _ _ _ _ _ _ _ => mean4_perm, ?values⟩
  case values => decide

/-- Settles O9: the mean of a window of legal samples is a legal sample, and it is exact in the register. -/
theorem meanStaysInRange : Obligations.MeanStaysInRange := by
  unfold Obligations.MeanStaysInRange
  intro a b c d ha hb hc hd
  have slots (i : BitVec 2) (v : Sample) (h : Window.get ⟨some a, some b, some c, some d⟩ i = some v) :
      inSampleRange v := by
    rcases index_cases i with rfl | rfl | rfl | rfl <;> cases h <;> assumption
  have hmean : inSampleRange (BitVec.ofInt 16 (mean4 a.toInt b.toInt c.toInt d.toInt)) :=
    inSampleRange_mean (Window.mean_full a b c d) slots
  simp only [inSampleRange, Config.sampleMin, Config.sampleMax] at ha hb hc hd
  exact ⟨by omega, by omega, _, Window.mean_full a b c d, hmean, toInt_ofInt_mean4 a b c d⟩

/-! ### Windows -/

/-- An empty slot leaves the window without a mean (R121). -/
theorem Window.mean_eq_none_of_get {w : Window} {i : BitVec 2} (h : w.get i = none) : w.mean = none := by
  refine Option.eq_none_iff_forall_ne_some.mpr fun m hm => ?_
  obtain ⟨a, b, c, d, rfl, -⟩ := Window.mean_eq_some hm
  rcases index_cases i with rfl | rfl | rfl | rfl <;> cases h

/-- The window after four writes in turn, the first into slot `i`. -/
def Window.setFour (w : Window) (i : BitVec 2) (a b c d : Sample) : Window :=
  (((w.set i (some a)).set (i + 1) (some b)).set (i + 2) (some c)).set (i + 3) (some d)

/-- Four writes in turn leave nothing of the window before. -/
theorem Window.get_setFour (w : Window) (i : BitVec 2) (a b c d : Sample) :
    (w.setFour i a b c d).get i = some a ∧ (w.setFour i a b c d).get (i + 1) = some b
      ∧ (w.setFour i a b c d).get (i + 2) = some c ∧ (w.setFour i a b c d).get (i + 3) = some d := by
  rcases index_cases i with rfl | rfl | rfl | rfl <;> exact ⟨rfl, rfl, rfl, rfl⟩

/-- The slots hold a rotation of the four values, which has their mean (R123). -/
theorem Window.mean_setFour (w : Window) (i : BitVec 2) (a b c d : Sample) :
    (w.setFour i a b c d).mean = some (BitVec.ofInt 16 (mean4 a.toInt b.toInt c.toInt d.toInt)) := by
  have rotate (a b c d : Int) : mean4 d a b c = mean4 a b c d := mean4_perm (List.perm_append_comm (l₁ := [d]))
  rcases index_cases i with rfl | rfl | rfl | rfl
  · rfl
  · rw [← rotate]; rfl
  · rw [← rotate, ← rotate]; rfl
  · rw [← rotate, ← rotate, ← rotate]; rfl

/-! ### `PUSH` (R121) -/

@[simp] theorem refilter_raw (a : FAxis) (s : State) : (refilter a s).raw = s.raw := by
  unfold refilter; split <;> rfl
@[simp] theorem refilter_win (a : FAxis) (s : State) : (refilter a s).win = s.win := by
  unfold refilter; split <;> rfl
@[simp] theorem refilter_widx (a : FAxis) (s : State) : (refilter a s).widx = s.widx := by
  unfold refilter; split <;> rfl
@[simp] theorem refilter_phase (a : FAxis) (s : State) : (refilter a s).phase = s.phase := by
  unfold refilter; split <;> rfl

theorem refilter_of_mean {a : FAxis} {s : State} {m : Sample} (h : (s.win.get a).mean = some m) :
    refilter a s = { s with filt := s.filt.set a (some m) } := by
  simp [refilter, h]

theorem refilter_of_no_mean {a : FAxis} {s : State} (h : (s.win.get a).mean = none) : refilter a s = s := by
  simp [refilter, h]

theorem refilter_filt_other {a b : FAxis} (h : b ≠ a) (s : State) : (refilter a s).filt.get b = s.filt.get b := by
  unfold refilter
  split
  · exact Xy.get_set_other _ h _
  · rfl

/-- The state after `PUSH` on axis `a` in a state whose `RAW` holds `v`. -/
def pushed (a : FAxis) (v : Sample) (s : State) : State :=
  refilter a { s with win := s.win.set a ((s.win.get a).set s.widx (some v)) }

@[simp] theorem pushed_raw (a : FAxis) (v : Sample) (s : State) : (pushed a v s).raw = s.raw := refilter_raw ..
@[simp] theorem pushed_widx (a : FAxis) (v : Sample) (s : State) : (pushed a v s).widx = s.widx := refilter_widx ..
@[simp] theorem pushed_phase (a : FAxis) (v : Sample) (s : State) : (pushed a v s).phase = s.phase := refilter_phase ..

theorem pushed_win (a : FAxis) (v : Sample) (s : State) :
    (pushed a v s).win = s.win.set a ((s.win.get a).set s.widx (some v)) := refilter_win ..

@[simp] theorem pushed_win_self (a : FAxis) (v : Sample) (s : State) :
    (pushed a v s).win.get a = (s.win.get a).set s.widx (some v) := by
  rw [pushed_win, Xy.get_set_self]

theorem pushed_win_other {a b : FAxis} (h : b ≠ a) (v : Sample) (s : State) :
    (pushed a v s).win.get b = s.win.get b := by
  rw [pushed_win, Xy.get_set_other _ h]

theorem pushed_of_mean {a : FAxis} {v m : Sample} {s : State} (h : ((pushed a v s).win.get a).mean = some m) :
    pushed a v s = { s with
      win := s.win.set a ((s.win.get a).set s.widx (some v))
      filt := s.filt.set a (some m) } :=
  refilter_of_mean (by rwa [pushed, refilter_win] at h)

theorem pushed_of_no_mean {a : FAxis} {v : Sample} {s : State} (h : ((pushed a v s).win.get a).mean = none) :
    pushed a v s = { s with win := s.win.set a ((s.win.get a).set s.widx (some v)) } :=
  refilter_of_no_mean (by rwa [pushed, refilter_win] at h)

theorem pushed_filt_self {a : FAxis} {v m : Sample} {s : State} (h : ((pushed a v s).win.get a).mean = some m) :
    (pushed a v s).filt.get a = some m := by
  rw [pushed_of_mean h, Xy.get_set_self]

theorem pushed_filt_other {a b : FAxis} (h : b ≠ a) (v : Sample) (s : State) :
    (pushed a v s).filt.get b = s.filt.get b :=
  refilter_filt_other h _

theorem pushRule_of_raw {a : FAxis} {s : State} {v : Sample} (h : s.raw.get a.toAxis = some v) :
    pushRule a s = pushed a v s := by
  rw [pushRule, h, pushed]

theorem wellFormed_push (a : FAxis) : (Instr.push a.toAxis).wellFormed = true := by
  cases a <;> rfl

theorem exec_push {a : FAxis} {s : State} (hp : s.phase = .calibrated ∨ s.phase = .running) :
    exec (.push a.toAxis) s = .next (pushRule a s) := by
  rw [exec_legal (wellFormed_push a) (legal_push_iff.mpr hp), ruleOf, onFiltered_toAxis]

/-- A command without a legal encoding raises `ILLEGAL_COMMAND` (R84; log entry 13). -/
theorem exec_not_wellFormed {i : Instr} {s : State} (hp : s.phase ≠ .halted) (hw : i.wellFormed = false) :
    exec i s = .next (raise .illegalCommand (encode i) s) := by
  rw [exec_eq, issue, if_neg hp, if_pos hw]

/-- Settles O18: the window is the old one with `RAW` in slot `WIDX`, and its mean decides whether `FILT` is written;
`AX` 2 and 3 make a word of opcode 4 illegal. -/
theorem pushInsertsAndAverages : Obligations.PushInsertsAndAverages := by
  unfold Obligations.PushInsertsAndAverages
  refine ⟨fun a s v hp hv => ?inserts, fun a s hp hv => ?noValue, fun a s hp => ?sequence, fun s hp => ?term,
    fun w s ho ha hp => ?word, by decide, by decide⟩
  case inserts =>
    refine ⟨(s.win.get a).set s.widx (some v), Window.get_set_self .., fun i hi => Window.get_set_other _ hi _,
      fun s0 s1 s2 s3 hw => ?_, fun ⟨i, hi⟩ => ?_⟩ <;> rw [exec_push hp, pushRule_of_raw hv]
    · have hmean : ((pushed a v s).win.get a).mean
          = some (BitVec.ofInt 16 (mean4 s0.toInt s1.toInt s2.toInt s3.toInt)) := by
        rw [pushed_win_self, hw, Window.mean_full]
      exact congrArg _ (pushed_of_mean hmean)
    · exact congrArg _ (pushed_of_no_mean (by rw [pushed_win_self, Window.mean_eq_none_of_get hi]))
  case noValue => rw [exec_push hp, pushRule, hv]
  case sequence =>
    rcases hp with hp | hp <;> exact exec_not_legal (by simp [hp]) (wellFormed_push a) (by rw [hp]; rfl)
  case term => exact exec_not_wellFormed hp rfl
  case word =>
    obtain ⟨e, he⟩ : ∃ e, decode w = .error e :=
      decode_error_iff_fields.mpr (.inr (.inr (.inr (.inl ⟨by simp [ho], ha⟩))))
    exact cmdEvent_illegal hp he

/-! ### `ADV` (R122) -/

theorem advRule_eq (s : State) : advRule s = { s with widx := s.widx + 1 } := by
  have h : BitVec.ofNat 2 ((s.widx.toNat + 1) % 4) = s.widx + 1 := by
    rcases index_cases s.widx with h | h | h | h <;> rw [h] <;> rfl
  exact congrArg (fun i => { s with widx := i }) h

@[simp] theorem advRule_win (s : State) : (advRule s).win = s.win := rfl
@[simp] theorem advRule_widx (s : State) : (advRule s).widx = s.widx + 1 := by rw [advRule_eq]
@[simp] theorem advRule_filt (s : State) : (advRule s).filt = s.filt := rfl
@[simp] theorem advRule_phase (s : State) : (advRule s).phase = s.phase := rfl

theorem exec_adv {s : State} (hp : s.phase = .calibrated ∨ s.phase = .running) : exec .adv s = .next (advRule s) :=
  exec_legal rfl (legal_adv_iff.mpr hp)

/-- Settles O19: adding 1 to a 2-bit index is adding modulo 4. -/
theorem advWrapsModuloFour : Obligations.AdvWrapsModuloFour := by
  unfold Obligations.AdvWrapsModuloFour
  refine ⟨by decide, fun s => ⟨fun hp => ⟨?advances, BitVec.toNat_add ..⟩, fun hp => ?sequence⟩⟩
  case advances => rw [exec_adv hp, advRule_eq]
  case sequence =>
    rcases hp with hp | hp <;> exact exec_not_legal (by simp [hp]) rfl (by rw [hp]; rfl)

/-! ### Programs that fill a window -/

/-- The state with the sample `v` in `RAW` of axis `a`. -/
def loaded (a : Axis) (v : Int) (s : State) : State :=
  { s with raw := s.raw.set a (some (BitVec.ofInt 16 v)) }

@[simp] theorem loaded_win (a : Axis) (v : Int) (s : State) : (loaded a v s).win = s.win := rfl
@[simp] theorem loaded_widx (a : Axis) (v : Int) (s : State) : (loaded a v s).widx = s.widx := rfl
@[simp] theorem loaded_phase (a : Axis) (v : Int) (s : State) : (loaded a v s).phase = s.phase := rfl

@[simp] theorem loaded_raw_self (a : Axis) (v : Int) (s : State) :
    (loaded a v s).raw.get a = some (BitVec.ofInt 16 v) := Xyz.get_set_self ..

theorem execAll_cons {i : Instr} {s t : State} (h : exec i s = .next t) (is : List Instr) :
    execAll (i :: is) s = execAll is t := by
  rw [execAll, h]

theorem execAll_ldb {v : Int} {s : State} (hp : s.phase = .calibrated ∨ s.phase = .running)
    (hv : -8192 ≤ v ∧ v ≤ 8191) (a : Axis) (is : List Instr) :
    execAll (.ldb a (packHi v) (packLo v) :: is) s = execAll is (loaded a v s) := by
  have h : exec (.ldb a (packHi v) (packLo v)) s = .next (ldbRule a (packHi v) (packLo v) s) :=
    exec_legal rfl (legal_ldb_iff.mpr (.inr hp))
  rw [execAll_cons h, ldbRule, unpack14_pack hv.1 hv.2, loaded]

theorem execAll_push {a : FAxis} {v : Sample} {s : State} (hp : s.phase = .calibrated ∨ s.phase = .running)
    (hv : s.raw.get a.toAxis = some v) (is : List Instr) :
    execAll (.push a.toAxis :: is) s = execAll is (pushed a v s) := by
  rw [execAll_cons (exec_push hp), pushRule_of_raw hv]

theorem execAll_adv {s : State} (hp : s.phase = .calibrated ∨ s.phase = .running) (is : List Instr) :
    execAll (.adv :: is) s = execAll is (advRule s) :=
  execAll_cons (exec_adv hp) is

/-! ### Four samples of one axis (R125) -/

/-- The state after `LDB a, #v; PUSH a`. -/
def sampled (a : FAxis) (v : Int) (s : State) : State := pushed a (BitVec.ofInt 16 v) (loaded a.toAxis v s)

@[simp] theorem sampled_widx (a : FAxis) (v : Int) (s : State) : (sampled a v s).widx = s.widx := pushed_widx ..
@[simp] theorem sampled_phase (a : FAxis) (v : Int) (s : State) : (sampled a v s).phase = s.phase := pushed_phase ..

@[simp] theorem sampled_win (a : FAxis) (v : Int) (s : State) :
    (sampled a v s).win.get a = (s.win.get a).set s.widx (some (BitVec.ofInt 16 v)) := pushed_win_self ..

theorem execAll_sample {v : Int} {s : State} (hp : s.phase = .calibrated ∨ s.phase = .running)
    (hv : -8192 ≤ v ∧ v ≤ 8191) (a : FAxis) (is : List Instr) :
    execAll (.ldb a.toAxis (packHi v) (packLo v) :: .push a.toAxis :: is) s = execAll is (sampled a v s) := by
  rw [execAll_ldb hp hv, execAll_push (s := loaded a.toAxis v s) hp (loaded_raw_self ..), sampled]

theorem execAll_sample_adv {v : Int} {s : State} (hp : s.phase = .calibrated ∨ s.phase = .running)
    (hv : -8192 ≤ v ∧ v ≤ 8191) (a : FAxis) (is : List Instr) :
    execAll (.ldb a.toAxis (packHi v) (packLo v) :: .push a.toAxis :: .adv :: is) s
      = execAll is (advRule (sampled a v s)) := by
  rw [execAll_sample hp hv, execAll_adv (by simpa using hp)]

/-- A slot that holds a narrowed sample in range holds that sample. -/
theorem map_toInt_of_sample {slot : Option Sample} {v : Int} (h : slot = some (BitVec.ofInt 16 v))
    (hv : -8192 ≤ v ∧ v ≤ 8191) : slot.map BitVec.toInt = some v := by
  rw [h, Option.map_some, toInt_ofInt_sample (by omega) (by omega)]

/-- The state after four samples of one axis with one `ADV` between each two. -/
def sampledFour (a : FAxis) (v1 v2 v3 v4 : Int) (s : State) : State :=
  sampled a v4 (advRule (sampled a v3 (advRule (sampled a v2 (advRule (sampled a v1 s))))))

theorem sampledFour_win (a : FAxis) (v1 v2 v3 v4 : Int) (s : State) :
    (sampledFour a v1 v2 v3 v4 s).win.get a = (s.win.get a).setFour s.widx
      (BitVec.ofInt 16 v1) (BitVec.ofInt 16 v2) (BitVec.ofInt 16 v3) (BitVec.ofInt 16 v4) := by
  simp [sampledFour, Window.setFour, BitVec.add_assoc]

/-- Settles O35: the four writes fill the window, so its mean is that of the four samples alone. -/
theorem meanOfTheFourMostRecent : Obligations.MeanOfTheFourMostRecent := by
  unfold Obligations.MeanOfTheFourMostRecent
  intro a s v1 v2 v3 v4 hp hv
  simp only [List.forall_mem_cons, List.not_mem_nil, false_implies, implies_true, and_true] at hv
  obtain ⟨h1, h2, h3, h4⟩ := hv
  have narrow {v : Int} (h : -8192 ≤ v ∧ v ≤ 8191) : (BitVec.ofInt 16 v).toInt = v :=
    toInt_ofInt_sample (by omega) (by omega)
  have hwin := sampledFour_win a v1 v2 v3 v4 s
  obtain ⟨slot1, slot2, slot3, slot4⟩ := Window.get_setFour (s.win.get a) s.widx
    (BitVec.ofInt 16 v1) (BitVec.ofInt 16 v2) (BitVec.ofInt 16 v3) (BitVec.ofInt 16 v4)
  rw [← hwin] at slot1 slot2 slot3 slot4
  refine ⟨sampledFour a v1 v2 v3 v4 s, ?runs, ⟨_, pushed_filt_self (hwin ▸ Window.mean_setFour ..), ?mean⟩,
    map_toInt_of_sample slot1 h1, map_toInt_of_sample slot2 h2, map_toInt_of_sample slot3 h3,
    map_toInt_of_sample slot4 h4⟩
  case runs =>
    rw [execAll_sample_adv hp h1, execAll_sample_adv (by simpa using hp) h2,
      execAll_sample_adv (by simpa using hp) h3, execAll_sample (by simpa using hp) h4]
    rfl
  case mean =>
    rw [toInt_ofInt_mean4, narrow h1, narrow h2, narrow h3, narrow h4]
    rfl

/-! ### `PREFILL` (R91, R126) -/

/-- The commands of `TRIG` of a triple in range (R88). -/
def trigInstrs (v : Xyz Int) : List Instr :=
  [.ldb .X (packHi v.x) (packLo v.x), .ldb .Y (packHi v.y) (packLo v.y), .ldb .Z (packHi v.z) (packLo v.z)]

/-- The state after `TRIG`. -/
def triggered (v : Xyz Int) (s : State) : State := loaded .Z v.z (loaded .Y v.y (loaded .X v.x s))

@[simp] theorem triggered_win (v : Xyz Int) (s : State) : (triggered v s).win = s.win := rfl
@[simp] theorem triggered_widx (v : Xyz Int) (s : State) : (triggered v s).widx = s.widx := rfl
@[simp] theorem triggered_phase (v : Xyz Int) (s : State) : (triggered v s).phase = s.phase := rfl

@[simp] theorem triggered_raw (v : Xyz Int) (s : State) (a : Axis) :
    (triggered v s).raw.get a = some (BitVec.ofInt 16 (v.get a)) := by
  cases a <;> rfl

theorem execAll_trig {v : Xyz Int} {s : State} (hp : s.phase = .calibrated ∨ s.phase = .running)
    (hv : ∀ a, -8192 ≤ v.get a ∧ v.get a ≤ 8191) (is : List Instr) :
    execAll (trigInstrs v ++ is) s = execAll is (triggered v s) :=
  calc execAll (trigInstrs v ++ is) s
    _ = execAll (_ :: _ :: is) (loaded .X v.x s) := execAll_ldb hp (hv .X) .X _
    _ = execAll (_ :: is) (loaded .Y v.y (loaded .X v.x s)) := execAll_ldb (s := loaded .X v.x s) hp (hv .Y) .Y _
    _ = execAll is (triggered v s) := execAll_ldb (s := loaded .Y v.y (loaded .X v.x s)) hp (hv .Z) .Z is

/-- The state after one triple of `PREFILL`: `TRIG`, then a push cycle. -/
def prefilled (v : Xyz Int) (s : State) : State :=
  advRule (pushed .Y (BitVec.ofInt 16 v.y) (pushed .X (BitVec.ofInt 16 v.x) (triggered v s)))

@[simp] theorem prefilled_widx (v : Xyz Int) (s : State) : (prefilled v s).widx = s.widx + 1 := by simp [prefilled]
@[simp] theorem prefilled_phase (v : Xyz Int) (s : State) : (prefilled v s).phase = s.phase := by simp [prefilled]

@[simp] theorem prefilled_win (v : Xyz Int) (s : State) (a : FAxis) :
    (prefilled v s).win.get a = (s.win.get a).set s.widx (some (BitVec.ofInt 16 (v.get a.toAxis))) := by
  cases a with
  | X => rw [prefilled, advRule_win, pushed_win_other (by decide), pushed_win_self]; rfl
  | Y => rw [prefilled, advRule_win, pushed_win_self, pushed_win_other (by decide), pushed_widx]; rfl

/-- A push of the other axis leaves the smoothed reading, so each is the mean of its own window. -/
theorem prefilled_filt {v : Xyz Int} {s : State} {a : FAxis} {m : Sample}
    (h : ((prefilled v s).win.get a).mean = some m) : (prefilled v s).filt.get a = some m := by
  rw [prefilled, advRule_win] at h
  rw [prefilled, advRule_filt]
  cases a with
  | X =>
    rw [pushed_win_other (by decide)] at h
    rw [pushed_filt_other (by decide), pushed_filt_self h]
  | Y => exact pushed_filt_self h

theorem execAll_prefillRound {v : Xyz Int} {s : State} (hp : s.phase = .calibrated ∨ s.phase = .running)
    (hv : ∀ a, -8192 ≤ v.get a ∧ v.get a ≤ 8191) (is : List Instr) :
    execAll (trigInstrs v ++ pushXY ++ is) s = execAll is (prefilled v s) := by
  have hX : (triggered v s).raw.get (FAxis.X).toAxis = some (BitVec.ofInt 16 v.x) := triggered_raw v s .X
  have hY : (pushed .X (BitVec.ofInt 16 v.x) (triggered v s)).raw.get (FAxis.Y).toAxis = some (BitVec.ofInt 16 v.y) :=
    (congrArg (·.get .Y) (pushed_raw ..)).trans (triggered_raw v s .Y)
  calc execAll (trigInstrs v ++ pushXY ++ is) s
    _ = execAll (pushXY ++ is) (triggered v s) := by rw [List.append_assoc, execAll_trig hp hv]
    _ = execAll (.push .Y :: .adv :: is) _ := execAll_push (a := .X) (by simpa using hp) hX _
    _ = execAll (.adv :: is) _ := execAll_push (a := .Y) (by simpa using hp) hY _
    _ = execAll is (prefilled v s) := execAll_adv (by simpa using hp) _

theorem trig_eq_some {v : Xyz Int} (hv : ∀ a, -8192 ≤ v.get a ∧ v.get a ≤ 8191) :
    trig v = some (trigInstrs v) := by
  have hx : ldbLiteral .X v.x = _ := ldbLiteral_eq_some (hv .X).1 (hv .X).2
  have hy : ldbLiteral .Y v.y = _ := ldbLiteral_eq_some (hv .Y).1 (hv .Y).2
  have hz : ldbLiteral .Z v.z = _ := ldbLiteral_eq_some (hv .Z).1 (hv .Z).2
  rw [trig, hx, hy, hz]
  rfl

/-- `PREFILL` assembles: no literal is refused (R88, D34). -/
theorem trigEach_eq_some (tail : List Instr) {vs : List (Xyz Int)}
    (hv : ∀ v ∈ vs, ∀ a, -8192 ≤ v.get a ∧ v.get a ≤ 8191) :
    trigEach tail vs = some (vs.flatMap fun v => trigInstrs v ++ tail) := by
  induction vs with
  | nil => rfl
  | cons v vs ih =>
    obtain ⟨hhead, htail⟩ := List.forall_mem_cons.mp hv
    rw [trigEach, trig_eq_some hhead, ih htail, List.flatMap_cons]

theorem execAll_prefillRounds {vs : List (Xyz Int)} {s : State} (hp : s.phase = .calibrated ∨ s.phase = .running)
    (hv : ∀ v ∈ vs, ∀ a, -8192 ≤ v.get a ∧ v.get a ≤ 8191) :
    execAll (vs.flatMap fun v => trigInstrs v ++ pushXY) s = .next (vs.foldl (fun s v => prefilled v s) s) := by
  induction vs generalizing s with
  | nil => rfl
  | cons v vs ih =>
    obtain ⟨hhead, htail⟩ := List.forall_mem_cons.mp hv
    rw [List.flatMap_cons, execAll_prefillRound hp hhead, ih (by simpa using hp) htail, List.foldl_cons]

/-- The state after the four triples of `PREFILL`. -/
def prefilledFour (v1 v2 v3 v4 : Xyz Int) (s : State) : State :=
  prefilled v4 (prefilled v3 (prefilled v2 (prefilled v1 s)))

theorem prefilledFour_win (v1 v2 v3 v4 : Xyz Int) (s : State) (a : FAxis) :
    (prefilledFour v1 v2 v3 v4 s).win.get a = (s.win.get a).setFour s.widx
      (BitVec.ofInt 16 (v1.get a.toAxis)) (BitVec.ofInt 16 (v2.get a.toAxis))
      (BitVec.ofInt 16 (v3.get a.toAxis)) (BitVec.ofInt 16 (v4.get a.toAxis)) := by
  simp [prefilledFour, Window.setFour, BitVec.add_assoc]

/-- Settles O36: each round of the program writes one slot of both windows and advances `WIDX`, so four rounds fill both
windows and bring `WIDX` back. -/
theorem prefillFillsBothWindows : Obligations.PrefillFillsBothWindows := by
  unfold Obligations.PrefillFillsBothWindows
  intro s v1 v2 v3 v4 hp hv
  have filled (a : FAxis) : has ((prefilledFour v1 v2 v3 v4 s).filt.get a) = true := by
    rw [prefilledFour, prefilled_filt (prefilledFour_win v1 v2 v3 v4 s a ▸ Window.mean_setFour ..)]; rfl
  refine ⟨_, prefilledFour v1 v2 v3 v4 s, (if_pos rfl).trans (trigEach_eq_some pushXY hv),
    execAll_prefillRounds (.inl hp) hv, filled .X, filled .Y, ?widx, ?phase⟩
  case widx => simp [prefilledFour, BitVec.add_assoc]
  case phase => simpa [prefilledFour] using hp

end Sys2Proof.Machine

/-! SUPPORT. The calibrator (spec/42_calibrator.md R140 to R144): what `CAL` answers in each phase, what ten of them over
one constant sample leave, and the statements O17, O32 and O34. -/

namespace Sys2Proof.Machine

/-! ### `CAL`, phase by phase (R140) -/

theorem encode_cal : encode .cal = 0x30000000 := by decide

theorem exec_cal {s : State} (hp : s.phase = .ready) : exec .cal s = .next (calRule s) :=
  exec_legal rfl (legal_cal_iff.mpr hp)

theorem exec_cal_sequence {s : State} (hp : s.phase = .reset ∨ s.phase = .calibrated ∨ s.phase = .running) :
    exec .cal s = .next (raise .sequenceError 0x30000000 s) := by
  obtain ⟨hhalted, hready⟩ : s.phase ≠ .halted ∧ s.phase ≠ .ready := by rcases hp with hp | hp | hp <;> simp [hp]
  exact exec_not_legal hhalted rfl (Bool.eq_false_iff.mpr (mt legal_cal_iff.mp hready))

theorem calRule_noValue {s : State} (h : s.raw.x = none ∨ s.raw.y = none) :
    calRule s = raise .noValue 0x30000000 s := by
  rcases calRule_cases s with ⟨-, hr⟩ | ⟨rx, ry, hx, hy, -⟩
  · rw [hr, encode_cal]
  · simp [hx, hy] at h

/-- The state after the tenth `CAL`: the references of the exact sums, the phase and the acknowledgement (R140, R141). -/
def finished (rx ry : Sample) (s : State) : State :=
  finishCalibration (s.acc.x.toInt + rx.toInt) (s.acc.y.toInt + ry.toInt) (counted rx ry s)

theorem calRule_of_raw {s : State} {rx ry : Sample} (hx : s.raw.x = some rx) (hy : s.raw.y = some ry) :
    calRule s = if s.caln.toNat + 1 = 10 then finished rx ry s else counted rx ry s := by
  rw [calRule, hx, hy]
  rfl

theorem exec_cal_counted {s : State} {rx ry : Sample} (hp : s.phase = .ready) (hx : s.raw.x = some rx)
    (hy : s.raw.y = some ry) (hn : s.caln.toNat + 1 ≠ 10) : exec .cal s = .next (counted rx ry s) := by
  rw [exec_cal hp, calRule_of_raw hx hy, if_neg hn]

theorem exec_cal_finished {s : State} {rx ry : Sample} (hp : s.phase = .ready) (hx : s.raw.x = some rx)
    (hy : s.raw.y = some ry) (hn : s.caln.toNat + 1 = 10) : exec .cal s = .next (finished rx ry s) := by
  rw [exec_cal hp, calRule_of_raw hx hy, if_pos hn]

theorem counted_caln_eq (rx ry : Sample) (s : State) : (counted rx ry s).caln = s.caln + 1 := by
  simp [counted, BitVec.ofNat_add]

theorem counted_eq (rx ry : Sample) (s : State) : counted rx ry s = { s with
    acc := ⟨BitVec.ofInt 18 (s.acc.x.toInt + rx.toInt), BitVec.ofInt 18 (s.acc.y.toInt + ry.toInt)⟩
    caln := s.caln + 1 } := by
  rw [← counted_caln_eq rx ry s, counted]

theorem finished_caln {s : State} (hn : s.caln.toNat + 1 = 10) (rx ry : Sample) : (finished rx ry s).caln = 10 :=
  congrArg (BitVec.ofNat 4) hn

theorem finished_eq {s : State} (hn : s.caln.toNat + 1 = 10) (rx ry : Sample) : finished rx ry s = { s with
    acc := ⟨BitVec.ofInt 18 (s.acc.x.toInt + rx.toInt), BitVec.ofInt 18 (s.acc.y.toInt + ry.toInt)⟩
    caln := 10
    ref := ⟨some (BitVec.ofInt 16 (Int.tdiv (s.acc.x.toInt + rx.toInt) 10)),
      some (BitVec.ofInt 16 (Int.tdiv (s.acc.y.toInt + ry.toInt) 10))⟩
    phase := .calibrated
    stg := .ackOn1
    k := 0
    tmr := 200
    led := .on3 } := by
  rw [← finished_caln hn rx ry]
  rfl

/-- Settles O17: `CAL` is legal in `PH_READY` only, and there its rule raises `NO_VALUE`, counts or finishes; the range
of the sums in the invariant makes the narrowed sums exact. -/
theorem calAccumulatesAndFinishes : Obligations.CalAccumulatesAndFinishes := by
  unfold Obligations.CalAccumulatesAndFinishes
  refine ⟨encode_cal, fun s => ⟨fun hp hraw => ?noValue, fun rx ry hp hx hy hn => ?counts,
    fun rx ry hp hx hy hn => ?finishes, fun rx ry hinv hp hx hy => ?exact,
    fun hinv hp => Nat.le_of_lt_succ (hinv.countOpen (.inr hp)), exec_cal_sequence⟩⟩
  case noValue => rw [exec_cal hp, calRule_noValue hraw]
  case counts => rw [exec_cal_counted hp hx hy hn, counted_eq]
  case finishes => rw [exec_cal_finished hp hx hy hn, finished_eq hn]
  case exact =>
    have hn : s.caln.toNat < 10 := hinv.countOpen (.inr hp)
    obtain ⟨hsumx, -⟩ := calSum_exact hinv hn .X (hinv.rawRange .X rx hx)
    obtain ⟨hsumy, -⟩ := calSum_exact hinv hn .Y (hinv.rawRange .Y ry hy)
    exact ⟨hsumx, hsumy, counted_caln_eq rx ry s ▸ counted_caln hn rx ry⟩

/-! ### After the calibration (R142) -/

/-- Only `CAL` and `Reset` write the calibrator's registers, and `CAL` does so in `PH_READY` only. -/
theorem Effect.calibration_eq {e : Event} {s t : State} (h : Effect s e t) (he : e ≠ .reset) (hp : s.phase ≠ .ready) :
    t.ref = s.ref ∧ t.acc = s.acc ∧ t.caln = s.caln := by
  cases h with
  | data w i t hd hl hw =>
    cases hw with
    | count | finish => exact absurd (legal_cal_iff.mp hl) hp
    | sample | fill | average | advance | classified => exact ⟨rfl, rfl, rfl⟩
  | reset => exact absurd rfl he
  | tick =>
    have same := (tick_sameButEngine s).sameData
    exact ⟨same.ref, same.acc, same.caln⟩
  | start =>
    have same := (beginCycle_sameButEngine { s with phase := .running }).sameData
    exact ⟨same.ref, same.acc, same.caln⟩
  | read | nothing | fault | arm => exact ⟨rfl, rfl, rfl⟩

/-- Settles O32: in these phases `CAL` is not legal, and no other command writes `REF`, `ACC` or `CALN`. -/
theorem referenceIsImmutable : Obligations.ReferenceIsImmutable := by
  unfold Obligations.ReferenceIsImmutable
  refine ⟨fun e s t h he hp => ?frame, fun s hp => exec_cal_sequence (.inr hp), fun s t h => ?reset⟩
  case frame =>
    have hready : s.phase ≠ .ready := by rcases hp with hp | hp | hp <;> simp [hp]
    exact (effect_of_runEvent h).calibration_eq he hready
  case reset =>
    cases h
    exact resetEvent_ref s

/-! ### A constant stream (R144) -/

/-- `n` samples of the constant `v` are counted and summed exactly, and `RAW` holds the next one. -/
structure ConstantSums (v : Sample) (n : Nat) (s : State) : Prop where
  phase : s.phase = .ready
  rawX : s.raw.x = some v
  rawY : s.raw.y = some v
  caln : s.caln.toNat = n
  accX : s.acc.x.toInt = n * v.toInt
  accY : s.acc.y.toInt = n * v.toInt

/-- Up to ten samples of one value in range sum to a value of the 18-bit range (R143). -/
theorem toInt_ofInt_constantSum {v : Sample} (hv : inSampleRange v) {n : Nat} (hn : n ≤ 10) :
    (BitVec.ofInt 18 (n * v.toInt)).toInt = n * v.toInt := by
  obtain ⟨hlo, hhi⟩ : -8192 ≤ v.toInt ∧ v.toInt ≤ 8191 := hv
  exact toInt_ofInt_acc (by nlinarith) (by nlinarith)

theorem constantSum_succ {v : Sample} {n : Nat} {a : Int} (ha : a = n * v.toInt) :
    a + v.toInt = (n + 1 : Nat) * v.toInt := by
  rw [ha]; push_cast; ring

theorem ConstantSums.counted_acc {v : Sample} {n : Nat} {s : State} (h : ConstantSums v n s) (hv : inSampleRange v)
    (hn : n < 10) : (counted v v s).acc.x.toInt = (n + 1 : Nat) * v.toInt
      ∧ (counted v v s).acc.y.toInt = (n + 1 : Nat) * v.toInt := by
  simp only [counted, constantSum_succ h.accX, constantSum_succ h.accY]
  exact ⟨toInt_ofInt_constantSum hv hn, toInt_ofInt_constantSum hv hn⟩

theorem ConstantSums.next {v : Sample} {n : Nat} {s : State} (h : ConstantSums v n s) (hv : inSampleRange v)
    (hn : n < 10) : ConstantSums v (n + 1) (counted v v s) where
  phase := h.phase
  rawX := h.rawX
  rawY := h.rawY
  caln := by rw [counted_caln (h.caln ▸ hn), h.caln]
  accX := (h.counted_acc hv hn).1
  accY := (h.counted_acc hv hn).2

/-- The truncated tenth of ten times a sample is the sample. -/
theorem meanOfSum_ten_mul (v : Sample) : meanOfSum (10 * v.toInt) = v := by
  have h : tdiv (10 * v.toInt) Config.calN = v.toInt := Int.mul_tdiv_cancel_left _ (by decide)
  rw [meanOfSum, h, BitVec.ofInt_toInt]

theorem ConstantSums.finished_ref {v : Sample} {s : State} (h : ConstantSums v 9 s) :
    (finished v v s).ref = ⟨some v, some v⟩ := by
  have hx : s.acc.x.toInt + v.toInt = 10 * v.toInt := constantSum_succ h.accX
  have hy : s.acc.y.toInt + v.toInt = 10 * v.toInt := constantSum_succ h.accY
  calc (finished v v s).ref
      = ⟨some (meanOfSum (s.acc.x.toInt + v.toInt)), some (meanOfSum (s.acc.y.toInt + v.toInt))⟩ := rfl
    _ = ⟨some v, some v⟩ := by rw [hx, hy, meanOfSum_ten_mul]

/-- The remaining `CAL` of a constant stream, by induction on how many come before the tenth. -/
theorem ConstantSums.execAll_cal {v : Sample} (hv : inSampleRange v) {n k : Nat} {s : State}
    (h : ConstantSums v n s) (hnk : n + k = 9) :
    ∃ t, execAll (List.replicate (k + 1) .cal) s = .next t ∧ t.ref = ⟨some v, some v⟩ ∧ t.phase = .calibrated
      ∧ t.acc.x.toInt = 10 * v.toInt ∧ t.acc.y.toInt = 10 * v.toInt := by
  induction k generalizing n s with
  | zero =>
    obtain rfl : n = 9 := hnk
    have hcal := exec_cal_finished h.phase h.rawX h.rawY (by rw [h.caln])
    exact ⟨finished v v s, execAll_cons hcal [], h.finished_ref, rfl, h.counted_acc hv (by decide)⟩
  | succ k ih =>
    have hcal := exec_cal_counted h.phase h.rawX h.rawY (by rw [h.caln]; omega)
    rw [List.replicate_succ, execAll_cons hcal]
    exact ih (h.next hv (by omega)) (by omega)

/-- Settles O34: from no samples counted, nine `CAL` count nine and the tenth divides ten times the constant by ten. -/
theorem constantStreamCalibratesExactly : Obligations.ConstantStreamCalibratesExactly := by
  unfold Obligations.ConstantStreamCalibratesExactly
  intro s v hp hcaln hacc hv hx hy
  have h0 : ConstantSums v 0 s :=
    { phase := hp, rawX := hx, rawY := hy, caln := by rw [hcaln]; rfl, accX := by simp [hacc], accY := by simp [hacc] }
  exact h0.execAll_cal hv (k := 9) rfl

end Sys2Proof.Machine

/-! SUPPORT. The zone classifier (spec/43_classifier.md R151 to R154): the level function and the four zones of the
policy, what `CLS` answers in each phase, and the statements O10, O11, O12 and O20. -/

namespace Sys2Proof.Machine

/-! ### The level of a distance (R151) -/

/-- The three ranges of the distance, each with its level. -/
theorem blinkLevel_cases (v r : Int) :
    ((v - r).natAbs < 2048 ∧ blinkLevel v r = 1)
      ∨ (2048 ≤ (v - r).natAbs ∧ (v - r).natAbs < 2731 ∧ blinkLevel v r = 2)
      ∨ (2731 ≤ (v - r).natAbs ∧ blinkLevel v r = 3) := by
  by_cases h1 : (v - r).natAbs < 2048
  · exact .inl ⟨h1, if_pos h1⟩
  · by_cases h2 : (v - r).natAbs < 2731
    · exact .inr (.inl ⟨Nat.le_of_not_lt h1, h2, (if_neg h1).trans (if_pos h2)⟩)
    · exact .inr (.inr ⟨Nat.le_of_not_lt h2, (if_neg h1).trans (if_neg h2)⟩)

theorem blinkLevel_eq_one_iff {v r : Int} : blinkLevel v r = 1 ↔ 8 * (v - r).natAbs < 16384 := by
  rcases blinkLevel_cases v r with ⟨hd, hl⟩ | ⟨hd, -, hl⟩ | ⟨hd, hl⟩ <;> rw [hl]
  · exact iff_of_true rfl (by omega)
  · exact iff_of_false (by decide) (by omega)
  · exact iff_of_false (by decide) (by omega)

/-- The bound 2731 is the least distance not below the exact quotient 16384/6. -/
theorem blinkLevel_eq_three_iff {v r : Int} : blinkLevel v r = 3 ↔ 16384 ≤ 6 * (v - r).natAbs := by
  rcases blinkLevel_cases v r with ⟨hd, hl⟩ | ⟨-, hd, hl⟩ | ⟨hd, hl⟩ <;> rw [hl]
  · exact iff_of_false (by decide) (by omega)
  · exact iff_of_false (by decide) (by omega)
  · exact iff_of_true rfl (by omega)

theorem blinkLevel_eq_two_iff {v r : Int} :
    blinkLevel v r = 2 ↔ 16384 ≤ 8 * (v - r).natAbs ∧ 6 * (v - r).natAbs < 16384 := by
  rcases blinkLevel_cases v r with ⟨hd, hl⟩ | ⟨hlow, hhigh, hl⟩ | ⟨hd, hl⟩ <;> rw [hl]
  · exact iff_of_false (by decide) (by omega)
  · exact iff_of_true rfl (by omega)
  · exact iff_of_false (by decide) (by omega)

theorem blinkLevel_ne_zero (v r : Int) : blinkLevel v r ≠ 0 := by
  rcases blinkLevel_cases v r with ⟨-, hl⟩ | ⟨-, -, hl⟩ | ⟨-, hl⟩ <;> rw [hl] <;> decide

/-- Settles O10: the distance lies in one of three ranges, whose bounds are those of the exact quotients. -/
theorem levelOfADistance : Obligations.LevelOfADistance := by
  unfold Obligations.LevelOfADistance
  refine ⟨fun v r => ⟨blinkLevel_eq_one_iff, blinkLevel_eq_two_iff, blinkLevel_eq_three_iff,
    blinkLevel_ne_zero v r, rfl⟩, ?values⟩
  case values => decide

/-! ### The four zones of the policy (R152) -/

section Zones

variable {cur ref : Int}

theorem classify_deadzone (h : (cur - ref).natAbs < 50) (pos neg : Level) : classify cur ref pos neg = (0, 0) :=
  if_pos h

theorem classify_negative (h : cur - ref ≤ -500) (pos neg : Level) :
    classify cur ref pos neg = (pos, blinkLevel cur ref) := by
  have hdead : ¬(cur - ref).natAbs < 50 := by omega
  exact (if_neg hdead).trans (if_pos h)

theorem classify_positive (h : cur - ref ≥ 500) (pos neg : Level) :
    classify cur ref pos neg = (blinkLevel cur ref, neg) := by
  have hdead : ¬(cur - ref).natAbs < 50 := by omega
  have hneg : ¬cur - ref ≤ -500 := by omega
  exact (if_neg hdead).trans ((if_neg hneg).trans (if_pos h))

/-- The hysteresis gap. -/
theorem classify_gap (h1 : 50 ≤ (cur - ref).natAbs) (h2 : (cur - ref).natAbs ≤ 499) (pos neg : Level) :
    classify cur ref pos neg = (pos, neg) := by
  have hneg : ¬cur - ref ≤ -500 := by omega
  have hpos : ¬cur - ref ≥ 500 := by omega
  exact (if_neg (Nat.not_lt.mpr h1)).trans ((if_neg hneg).trans (if_neg hpos))

/-! ### Who writes which level (R154) -/

/-- The positive level is written in the positive zone and the deadzone only. -/
theorem classify_fst_of_lt (h : 50 ≤ (cur - ref).natAbs) (hlt : cur - ref < 500) (pos neg : Level) :
    (classify cur ref pos neg).1 = pos := by
  by_cases hneg : cur - ref ≤ -500
  · rw [classify_negative hneg]
  · rw [classify_gap h (by omega)]

/-- The negative level is written in the negative zone and the deadzone only. -/
theorem classify_snd_of_gt (h : 50 ≤ (cur - ref).natAbs) (hgt : -500 < cur - ref) (pos neg : Level) :
    (classify cur ref pos neg).2 = neg := by
  by_cases hpos : cur - ref ≥ 500
  · rw [classify_positive hpos]
  · rw [classify_gap h (by omega)]

theorem classify_fst_ne_zero (h : 50 ≤ (cur - ref).natAbs) {pos : Level} (hpos : pos ≠ 0) (neg : Level) :
    (classify cur ref pos neg).1 ≠ 0 := by
  by_cases hlt : cur - ref < 500
  · rwa [classify_fst_of_lt h hlt]
  · rw [classify_positive (not_lt.mp hlt)]
    exact blinkLevel_ne_zero cur ref

theorem classify_snd_ne_zero (h : 50 ≤ (cur - ref).natAbs) (pos : Level) {neg : Level} (hneg : neg ≠ 0) :
    (classify cur ref pos neg).2 ≠ 0 := by
  by_cases hgt : -500 < cur - ref
  · rwa [classify_snd_of_gt h hgt]
  · rw [classify_negative (not_lt.mp hgt)]
    exact blinkLevel_ne_zero cur ref

/-- The zone depends on the distance only, and in each zone the policy writes constants or leaves a level alone. -/
theorem classify_idem (cur ref : Int) (pos neg : Level) :
    classify cur ref (classify cur ref pos neg).1 (classify cur ref pos neg).2 = classify cur ref pos neg := by
  by_cases hdead : (cur - ref).natAbs < 50
  · rw [classify_deadzone hdead, classify_deadzone hdead]
  · by_cases hneg : cur - ref ≤ -500
    · simp only [classify_negative hneg]
    · by_cases hpos : cur - ref ≥ 500
      · simp only [classify_positive hpos]
      · rw [classify_gap (Nat.not_lt.mp hdead) (by omega)]

end Zones

/-- Settles O11: one equation per zone. -/
theorem classificationPolicy : Obligations.ClassificationPolicy := by
  unfold Obligations.ClassificationPolicy
  exact fun cur ref pos neg => ⟨fun h => classify_deadzone h pos neg, fun h => classify_negative h pos neg,
    fun h => classify_positive h pos neg, fun h1 h2 => classify_gap h1 h2 pos neg⟩

/-- Settles O12: outside the deadzone a level is kept or takes a level of R151, which is never 0. -/
theorem levelsPersistOutsideTheDeadzone : Obligations.LevelsPersistOutsideTheDeadzone := by
  unfold Obligations.LevelsPersistOutsideTheDeadzone
  refine ⟨fun cur ref pos neg h => ⟨fun hpos => classify_fst_ne_zero h hpos neg,
    fun hneg => classify_snd_ne_zero h pos hneg, fun hlt => classify_fst_of_lt h hlt pos neg,
    fun hgt => classify_snd_of_gt h hgt pos neg⟩, fun cur ref pos hpos hneg => ?swing,
    fun cur ref h1 h2 => classify_gap h1 h2 0 0⟩
  case swing =>
    rw [classify_negative hneg]
    exact ⟨hpos, blinkLevel_ne_zero cur ref⟩

/-! ### `CLS` (R153) -/

theorem Levels.setPair_self (l : Levels) (a : FAxis) (p : Level × Level) :
    (l.setPair a p).pos a = p.1 ∧ (l.setPair a p).neg a = p.2 := by
  cases a <;> exact ⟨rfl, rfl⟩

theorem wellFormed_cls (a : FAxis) : (Instr.cls a.toAxis).wellFormed = true := by
  cases a <;> rfl

theorem exec_cls {a : FAxis} {s : State} (hp : s.phase = .running) :
    exec (.cls a.toAxis) s = .next (clsRule a s) := by
  rw [exec_legal (wellFormed_cls a) (legal_cls_iff.mpr hp), ruleOf, onFiltered_toAxis]

theorem clsRule_of_values {a : FAxis} {s : State} {c r : Sample} (hc : s.filt.get a = some c)
    (hr : s.ref.get a = some r) :
    clsRule a s = { s with
      lvl := s.lvl.setPair a (classify c.toInt r.toInt (s.lvl.pos a) (s.lvl.neg a)) } := by
  rw [clsRule, hc, hr]

theorem clsRule_noValue {a : FAxis} {s : State} (hc : s.filt.get a = none) :
    clsRule a s = raise .noValue (encode (.cls a.toAxis)) s := by
  rw [clsRule, hc]

/-- Ten samples are counted before the block runs, and then both references hold their means. -/
theorem Inv.ref_of_running {s : State} (h : Inv s) (hp : s.phase = .running) (a : FAxis) :
    s.ref.get a = some (meanOfSum (s.acc.get a).toInt) := by
  rw [h.refIsMean a, if_pos (h.countDone (.inr hp))]

/-- Settles O20: `CLS` is legal in `PH_RUNNING` only, and there its rule writes one pair or raises `NO_VALUE`; `AX` 2
and 3 make a word of opcode 6 illegal. -/
theorem clsWritesItsPair : Obligations.ClsWritesItsPair := by
  unfold Obligations.ClsWritesItsPair
  refine ⟨fun a s c r hp hc hr => ?writes, fun a s hinv hp => ⟨_, hinv.ref_of_running hp a⟩, fun a l p => ?pair,
    fun a s hp hc => ?noValue, fun a s hp => ?sequence, fun s hp => exec_not_wellFormed hp rfl,
    fun w s ho ha hp => ?word, classify_idem, by decide, by decide⟩
  case writes => rw [exec_cls hp, clsRule_of_values hc hr]
  case pair =>
    obtain ⟨hpos, hneg⟩ := l.setPair_self a p
    exact ⟨hpos, hneg, fun b hb => l.setPair_other hb p⟩
  case noValue => rw [exec_cls hp, clsRule_noValue hc]
  case sequence =>
    obtain ⟨hhalted, hrunning⟩ : s.phase ≠ .halted ∧ s.phase ≠ .running := by rcases hp with hp | hp | hp <;> simp [hp]
    exact exec_not_legal hhalted (wellFormed_cls a) (Bool.eq_false_iff.mpr (mt legal_cls_iff.mp hrunning))
  case word =>
    obtain ⟨e, he⟩ : ∃ e, decode w = .error e :=
      decode_error_iff_fields.mpr (.inr (.inr (.inr (.inl ⟨by simp [ho], ha⟩))))
    exact cmdEvent_illegal hp he

end Sys2Proof.Machine

/-! SUPPORT. The stages of the pulse engine (spec/44_pulse_engine.md R171 to R176, R182): the functions of a snapshot,
what a search and the beginning of a cycle end in, and how long a stage lasts; the statements O21, O31, O37 to O41 and
O43. -/

namespace Sys2Proof.Machine

/-! ### The functions of a snapshot (R171) -/

theorem xact_iff {l : Levels} {k : Nat} : xact l k = true ↔ k ≤ l.px.toNat + l.nx.toNat := decide_eq_true_iff

theorem yact_iff {l : Levels} {k : Nat} : yact l k = true ↔ k ≤ l.py.toNat + l.ny.toNat := decide_eq_true_iff

theorem allZero_iff {l : Levels} : allZero l = true ↔ l.px = 0 ∧ l.nx = 0 ∧ l.py = 0 ∧ l.ny = 0 := by
  simp [allZero, and_assoc]

/-- Settles O37: the sums against the round, and `round_idle` by the two pulses. -/
theorem snapshotFunctions : Obligations.SnapshotFunctions := by
  unfold Obligations.SnapshotFunctions
  intro l k
  refine ⟨xact_iff, yact_iff, ?xcol, ?ycol, ?idle, allZero_iff⟩
  case xcol => simp [xcol, bne, beq_eq_decide]
  case ycol => simp [ycol, bne, beq_eq_decide]
  case idle =>
    rw [roundIdle_eq]
    simp only [xact_iff, yact_iff]
    split <;> split <;> rfl

/-! ### The search for the next stage (R173) -/

/-- What follows round `k`: the search in the next round, or a new cycle after the third (R173, R176). -/
def nextRound (k : Nat) (s : State) : State := if k < Config.nRounds then seek (k + 1) 0 s else beginCycle s

theorem seek_of_seekRound {k p : Nat} {s t : State} (h : seekRound k p s = some t) : seek k p s = t := by
  rw [seek, h]

/-- The recursion of `pe_seek`: where round `k` has nothing left, what follows it. -/
theorem seek_eq (k p : Nat) (s : State) : seek k p s = (seekRound k p s).getD (nextRound k s) := by
  rcases seek_cases k p s with ⟨t, ht, h⟩ | ⟨hnone, hk, t, ht, h⟩ | ⟨hnone, hk, h⟩
  · rw [h, ht, Option.getD_some]
  · rw [h, hnone, Option.getD_none, nextRound, if_pos hk, seek_of_seekRound ht]
  · rw [h, hnone, Option.getD_none, nextRound, if_neg hk]

/-- Settles O39: each branch of the search within a round is a branch of the rule, and the rest is its recursion. -/
theorem seekFindsTheNextStage : Obligations.SeekFindsTheNextStage := by
  unfold Obligations.SeekFindsTheNextStage
  intro k p s
  rw [seek_eq, seekRound]
  split
  case isTrue => rfl
  case isFalse =>
    split
    case isTrue => rfl
    case isFalse => split <;> rfl

theorem seekRound_snap {k p : Nat} {s t : State} (h : seekRound k p s = some t) : t.snap = s.snap := by
  rcases seekRound_cases k p s with ⟨-, -, h'⟩ | ⟨-, -, -, h'⟩ | ⟨-, -, -, h'⟩ | ⟨-, -, -, h'⟩ <;>
    rw [h'] at h <;> cases h <;> rfl

theorem isTimed_iff {g : Stage} : g.isTimed = true ↔ g ≠ .off ∧ g ≠ .halt := by
  cases g <;> decide

/-- A stage that a search finds is a timed one with at least one tick to go. -/
theorem timed_of_seekRound {k p : Nat} {s t : State} (h : seekRound k p s = some t) :
    t.stg.isTimed = true ∧ 1 ≤ t.tmr.toNat := by
  rcases seekRound_cases k p s with ⟨-, -, h'⟩ | ⟨-, -, -, h'⟩ | ⟨-, -, hidle, h'⟩ | ⟨-, -, -, h'⟩ <;>
    rw [h'] at h <;> cases h
  · exact ⟨rfl, (timer_loaded (by decide) (by decide)).1⟩
  · exact ⟨rfl, (timer_loaded (by decide) (by decide)).1⟩
  · exact ⟨rfl, (timer_loaded hidle ((roundIdle_le ..).trans (by decide))).1⟩

theorem timed_beginCycle (s : State) : (beginCycle s).stg.isTimed = true ∧ 1 ≤ (beginCycle s).tmr.toNat := by
  have he := runningEngine_beginCycle s
  exact ⟨by rw [Stage.isTimed, he.running, Bool.or_true], he.timer.1⟩

/-- Settles O40: a search ends in a stage of the round, in a stage of the next round, or in the first of a cycle. -/
theorem everySearchEndsInATimedStage : Obligations.EverySearchEndsInATimedStage := by
  unfold Obligations.EverySearchEndsInATimedStage
  refine fun s => ⟨timed_beginCycle s, fun k p => ?_⟩
  rcases seek_cases k p s with ⟨t, ht, h⟩ | ⟨-, -, t, ht, h⟩ | ⟨-, -, h⟩ <;> rw [h]
  · exact timed_of_seekRound ht
  · exact timed_of_seekRound ht
  · exact timed_beginCycle s

/-! ### The beginning of a cycle (R172, R174) -/

theorem beginCycle_of_allZero {s : State} (h : allZero s.lvl = true) :
    beginCycle s = enterLed .zt 0 Config.tTick .off3 (snapshot s) := if_pos h

theorem beginCycle_eq_seek {s : State} (h : allZero s.lvl = false) : beginCycle s = seek 1 0 (snapshot s) := by
  obtain ⟨t, ht⟩ := seekRound_zero 1 (snapshot s)
  rw [seek_of_seekRound ht, beginCycle, if_neg (by simp [h]), ht, Option.getD_some]

/-- Settles O38: of everything an event can do, only a tick, `START` and `Reset` write `SNAP`. -/
theorem beginCycleSnapshots : Obligations.BeginCycleSnapshots := by
  unfold Obligations.BeginCycleSnapshots
  refine ⟨fun s => ⟨beginCycle_of_allZero, beginCycle_eq_seek⟩, fun e s t he hsnap => ?_⟩
  cases effect_of_runEvent he with
  | reset => exact .inl rfl
  | tick => exact .inr (.inl rfl)
  | start w hd => exact .inr (.inr ⟨w, rfl, hd⟩)
  | read | nothing | fault | arm => exact absurd rfl hsnap
  | data w i t hd hl hw =>
    rcases hw.engine_cases with ⟨-, -, -, -, hsame⟩ | ⟨-, -, -, -, -, -, hsame⟩ <;> exact absurd hsame hsnap

theorem exec_start {s : State} (hp : s.phase = .calibrated) :
    exec .start s = .next (beginCycle { s with phase := .running }) :=
  exec_legal rfl (legal_start_iff.mpr hp)

/-- The invariant leaves `OFF` and the acknowledgement as the stages of a calibrated block (R45). -/
theorem Inv.off_of_ready {s : State} (h : Inv s) (hp : s.phase = .calibrated) (hr : cmdReady s = true) :
    s.stg = .off := by
  have hrun := mt h.runningStage.mpr (by simp [hp])
  have hhalt := mt h.haltedStage.mpr (by simp [hp])
  revert hrun hhalt hr
  unfold cmdReady
  cases s.stg <;> decide

/-- Settles O21: `START` is legal in `PH_CALIBRATED` only, and there the invariant has every level at 0. -/
theorem startTakesTheFirstSnapshot : Obligations.StartTakesTheFirstSnapshot := by
  unfold Obligations.StartTakesTheFirstSnapshot
  refine fun s => ⟨by decide, exec_start, fun h hp => ?snapshot, Inv.off_of_ready, fun hp => ?sequence⟩
  case snapshot =>
    have hlvl : s.lvl = .zero := (h.levelsEarly (.inr (.inr hp))).1
    have hz : allZero s.lvl = true := by rw [hlvl]; rfl
    rw [exec_start hp, beginCycle_of_allZero (s := { s with phase := .running }) hz, snapshot, hlvl]
    rfl
  case sequence =>
    obtain ⟨hhalted, hcal⟩ : s.phase ≠ .halted ∧ s.phase ≠ .calibrated := by
      rcases hp with hp | hp | hp <;> simp [hp]
    exact exec_not_legal hhalted rfl (Bool.eq_false_iff.mpr (mt legal_start_iff.mp hcal))

/-! ### `Tick` (R176) -/

/-- Settles O31: the frame of the pulse engine's operations. -/
theorem tickChangesOnlyTheEngine : Obligations.TickChangesOnlyTheEngine := tick_sameButEngine

theorem tick_idle {s : State} (h : s.stg = .off ∨ s.stg = .halt) : tick s = s := if_pos h

theorem tick_count {s : State} (hg : s.stg.isTimed = true) (ht : 1 < s.tmr.toNat) :
    tick s = { s with tmr := s.tmr - 1 } := by
  obtain ⟨hoff, hhalt⟩ := isTimed_iff.mp hg
  rw [tick, if_neg (by simp [hoff, hhalt]), if_pos ht]

theorem tick_last {s : State} (hg : s.stg.isTimed = true) (ht : s.tmr.toNat ≤ 1) : tick s = endStage s := by
  obtain ⟨hoff, hhalt⟩ := isTimed_iff.mp hg
  rw [tick, if_neg (by simp [hoff, hhalt]), if_neg (by omega)]

/-- A stage's ticks but the last only count down. -/
theorem ticks_count {s : State} (hg : s.stg.isTimed = true) {n : Nat} (hn : n < s.tmr.toNat) :
    ticks n s = { s with tmr := BitVec.ofNat 16 (s.tmr.toNat - n) } := by
  induction n with
  | zero => simp
  | succ n ih =>
    have hlt := s.tmr.isLt
    have hleft : (BitVec.ofNat 16 (s.tmr.toNat - n)).toNat = s.tmr.toNat - n := by
      rw [BitVec.toNat_ofNat]
      omega
    have hdec : BitVec.ofNat 16 (s.tmr.toNat - n) - 1 = BitVec.ofNat 16 (s.tmr.toNat - (n + 1)) := by bv_omega
    rw [ticks_add n 1, ih (by omega), ← hdec]
    exact tick_count hg (by rw [hleft]; omega)

/-- With `D` ticks to go, the `D`-th is the one that finds `TMR = 1`. -/
theorem ticks_tmr {s : State} (hg : s.stg.isTimed = true) (ht : 1 ≤ s.tmr.toNat) :
    ticks s.tmr.toNat s = tick { s with tmr := 1 } := by
  obtain ⟨n, hn⟩ : ∃ n, s.tmr.toNat = n + 1 := ⟨s.tmr.toNat - 1, by omega⟩
  have hone : s.tmr.toNat - n = 1 := by omega
  rw [hn, ticks_add n 1, ticks_count hg (by omega), hone]
  rfl

/-! ### The engine does not depend on `PHASE` -/

theorem seekRound_withPhase (k p : Nat) (s : State) (f : Phase) :
    seekRound k p { s with phase := f } = (seekRound k p s).map fun t => { t with phase := f } := by
  simp only [seekRound]
  split <;> [rfl; split <;> [rfl; split <;> rfl]]

theorem beginCycle_withPhase (s : State) (f : Phase) :
    beginCycle { s with phase := f } = { beginCycle s with phase := f } := by
  cases hz : allZero s.lvl with
  | true => rw [beginCycle_of_allZero hz, beginCycle_of_allZero (s := { s with phase := f }) hz]; rfl
  | false =>
    obtain ⟨t, ht⟩ := seekRound_zero 1 (snapshot s)
    have ht' := seekRound_withPhase 1 0 (snapshot s) f
    rw [ht, Option.map_some] at ht'
    rw [beginCycle_eq_seek hz, beginCycle_eq_seek (s := { s with phase := f }) hz, seek_of_seekRound ht]
    exact seek_of_seekRound ht'

theorem seek_withPhase (k p : Nat) (s : State) (f : Phase) :
    seek k p { s with phase := f } = { seek k p s with phase := f } := by
  rcases seek_cases k p s with ⟨t, ht, h⟩ | ⟨hnone, hk, t, ht, h⟩ | ⟨hnone, hk, h⟩ <;>
    simp [seek, seekRound_withPhase, beginCycle_withPhase, *]

theorem endStage_withPhase (s : State) (f : Phase) : endStage { s with phase := f } = { endStage s with phase := f } := by
  simp only [endStage]
  split
  case h_7 | h_9 => exact seek_withPhase ..
  case h_10 =>
    split
    · exact seek_withPhase ..
    · exact beginCycle_withPhase ..
  case h_11 => exact beginCycle_withPhase ..
  all_goals rfl

theorem tick_withPhase (s : State) (f : Phase) : tick { s with phase := f } = { tick s with phase := f } := by
  simp only [tick, endStage_withPhase]
  split
  · rfl
  · split <;> rfl

theorem SameButEngine.fault_eq {s t : State} (h : SameButEngine s t) : t.fault = s.fault := by
  unfold SameButEngine at h
  rw [h]

/-- Settles O41: the three cases of a tick, the last tick read off the stage it ends, and the countdown before it. -/
theorem tickEndsStagesOnTime : Obligations.TickEndsStagesOnTime := by
  unfold Obligations.TickEndsStagesOnTime
  refine ⟨fun s => ⟨tick_idle, fun hoff hhalt => tick_count (isTimed_iff.mpr ⟨hoff, hhalt⟩), fun ht => ?last⟩,
    fun s n hoff hhalt hn => ?countdown,
    fun s p => ⟨tick_withPhase s p, (tick_sameButEngine s).phase_eq, (tick_sameButEngine s).fault_eq⟩⟩
  case last =>
    have ends {g : Stage} (hg : s.stg = g) (hgt : g.isTimed = true) : tick s = endStage s :=
      tick_last (hg ▸ hgt) (by rw [ht]; decide)
    refine ⟨fun hg => ?ackOn1, fun hg => ?ackOff1, fun hg => ?ackOn2, fun hg => ?ackOff2, fun hg => ?xp,
      fun hg => ?xn, fun hg => ?yp, fun hg => ?yn, fun hg hk => ?ri, fun hg hk => ?ri3, fun hg => ?zt⟩
    case ackOn1 | ackOff1 | ackOn2 | ackOff2 | xp | yp => rw [ends hg rfl, endStage, hg]; rfl
    case xn | yn | zt => rw [ends hg rfl, endStage, hg]
    case ri => rw [ends hg rfl, endStage, hg]; exact if_pos hk
    case ri3 => rw [ends hg rfl, endStage, hg]; exact if_neg (by rw [hk]; decide)
  case countdown =>
    have hg := isTimed_iff.mpr ⟨hoff, hhalt⟩
    exact ⟨ticks_count hg hn, ticks_tmr hg (by omega)⟩

/-! ### The ticks that end a cycle (R182) -/

/-- The stage of `s` is the last of its cycle. -/
def EndsCycle (s : State) : Prop :=
  s.stg = .zt ∨ (s.stg = .ri ∧ s.k = 3) ∨ (s.stg = .yn ∧ s.k = 3 ∧ roundIdle s.snap 3 = 0)

theorem round_eq_three_iff {k : BitVec 2} : k = 3 ↔ ¬k.toNat < Config.nRounds := by
  have := k.isLt
  unfold Config.nRounds
  bv_omega

/-- A search that finds nothing up to the end of round 3 begins a cycle; every other keeps the snapshot. -/
theorem seek_snap_cases (k p : Nat) (s : State) :
    (seek k p s).snap = s.snap
      ∨ (2 ≤ p ∧ roundIdle s.snap k = 0 ∧ ¬k < Config.nRounds) := by
  rcases seek_cases k p s with ⟨t, ht, h⟩ | ⟨-, -, t, ht, h⟩ | ⟨hnone, hk, -⟩
  · exact .inl (h ▸ seekRound_snap ht)
  · exact .inl (h ▸ seekRound_snap ht)
  · right
    rcases seekRound_cases k p s with ⟨-, -, h'⟩ | ⟨-, -, -, h'⟩ | ⟨-, -, -, h'⟩ | ⟨hp, hx, hy, -⟩
    · simp [h'] at hnone
    · simp [h'] at hnone
    · simp [h'] at hnone
    · exact ⟨hp, by rw [roundIdle_eq, if_pos hx, if_pos hy], hk⟩

theorem EndsCycle.endStage_eq {s : State} (h : EndsCycle s) : endStage s = beginCycle s := by
  rcases h with hg | ⟨hg, hk⟩ | ⟨hg, hk, hidle⟩ <;> rw [endStage, hg]
  · exact if_neg (round_eq_three_iff.mp hk)
  · have hnone : seekRound 3 2 s = none := by simp [seekRound, hidle]
    have hk3 : s.k.toNat = 3 := by rw [hk]; rfl
    dsimp only
    rw [hk3, seek_eq, hnone, Option.getD_none]
    rfl

theorem endStage_snap {s : State} (h : ¬EndsCycle s) : (endStage s).snap = s.snap := by
  unfold endStage
  cases hg : s.stg with
  | off | halt | ackOn1 | ackOff1 | ackOn2 | ackOff2 | xp | yp => rfl
  | zt => exact absurd (.inl hg) h
  | ri =>
    dsimp only
    split
    · rcases seek_snap_cases (s.k.toNat + 1) 0 s with hsame | ⟨hp, -⟩
      · exact hsame
      · omega
    · next hk => exact absurd (.inr (.inl ⟨hg, round_eq_three_iff.mpr hk⟩)) h
  | xn =>
    rcases seek_snap_cases s.k.toNat 1 s with hsame | ⟨hp, -⟩
    · exact hsame
    · omega
  | yn =>
    rcases seek_snap_cases s.k.toNat 2 s with hsame | ⟨-, hidle, hk⟩
    · exact hsame
    · have hk3 := round_eq_three_iff.mpr hk
      rw [hk3] at hidle
      exact absurd (.inr (.inr ⟨hg, hk3, hidle⟩)) h

theorem EndsCycle.isTimed {s : State} (h : EndsCycle s) : s.stg.isTimed = true := by
  rcases h with hg | ⟨hg, -⟩ | ⟨hg, -⟩ <;> rw [hg] <;> rfl

/-- Settles O43: the last tick of a stage is the end of the stage, which begins a cycle or keeps the snapshot; every other
tick counts or does nothing. -/
theorem snapshotsHappenAtCycleEnds : Obligations.SnapshotsHappenAtCycleEnds := by
  unfold Obligations.SnapshotsHappenAtCycleEnds
  refine fun s ht => ⟨fun (h : EndsCycle s) => ?ends, fun (h : ¬EndsCycle s) => ?keeps, fun m h1 h2 => ?counts⟩
  case ends =>
    have hbegin : tick s = beginCycle s := (tick_last h.isTimed ht).trans h.endStage_eq
    exact ⟨hbegin, by rw [hbegin, beginCycle_snap]⟩
  case keeps =>
    rcases tick_cases s with ⟨-, htick⟩ | ⟨-, -, hlt, -⟩ | ⟨-, -, -, htick⟩
    · rw [htick]
    · omega
    · rw [htick, endStage_snap h]
  case counts =>
    have hm : (BitVec.ofNat 16 m).toNat = m := by rw [BitVec.toNat_ofNat]; omega
    rcases tick_cases { s with tmr := BitVec.ofNat 16 m } with ⟨-, htick⟩ | ⟨-, -, -, htick⟩ | ⟨-, -, hle, -⟩
    · rw [htick]
    · rw [htick]
    · simp only [hm] at hle
      omega

end Sys2Proof.Machine

/-! SUPPORT. The segment form (spec/44_pulse_engine.md R175, R178 to R180): what a run of ticks drives, for the stages of
the acknowledgement and of a cycle, and the statements O42 and O44 to O46. -/

namespace Sys2Proof.Machine

/-! ### Durations and pulses of a list of segments (R179, R180) -/

theorem segmentTicks_append (a b : List (Rgb × Nat)) : segmentTicks (a ++ b) = segmentTicks a + segmentTicks b := by
  induction a with
  | nil => simp [segmentTicks]
  | cons seg a ih => simp [segmentTicks, ih, Nat.add_assoc]

/-- The second list takes over when the first is used up. -/
theorem segmentLed_append (a b : List (Rgb × Nat)) (n : Nat) :
    segmentLed (a ++ b) n = if n < segmentTicks a then segmentLed a n else segmentLed b (n - segmentTicks a) := by
  induction a generalizing n with
  | nil => simp [segmentTicks]
  | cons seg a ih =>
    obtain ⟨c, d⟩ := seg
    by_cases hn : n < d
    · simp [segmentLed, segmentTicks, hn, Nat.lt_add_right]
    · have hiff : n - d < segmentTicks a ↔ n < d + segmentTicks a := by omega
      simp [segmentLed, segmentTicks, hn, ih, hiff, Nat.sub_sub]

theorem segmentTicks_roundSegments (l : Levels) (k : Nat) : segmentTicks (roundSegments l k) = 400 := by
  rw [roundSegments, roundIdle_eq]
  cases xact l k <;> cases yact l k <;> rfl

theorem cycleSegments_of_allZero {l : Levels} (h : allZero l = true) :
    cycleSegments l = [(.off3, Config.tTick)] := if_pos h

theorem cycleSegments_of_not_allZero {l : Levels} (h : allZero l = false) :
    cycleSegments l = roundSegments l 1 ++ roundSegments l 2 ++ roundSegments l 3 := if_neg (by simp [h])

/-- Settles O45: a cycle is three rounds of 400 ticks, or the one segment of `T_TICK`. -/
theorem cycleDurations : Obligations.CycleDurations := by
  unfold Obligations.CycleDurations
  refine fun l => ⟨segmentTicks_roundSegments l, fun h => ?rounds, fun h => ?hold⟩
  case rounds => simp [cycleSegments_of_not_allZero h, segmentTicks_append, segmentTicks_roundSegments]
  case hold => rw [cycleSegments_of_allZero h]; rfl

/-- The colours of the axes and the two neutral values are told apart by red and blue alone. -/
theorem colours_distinct (l : Levels) :
    xcol l ≠ ycol l ∧ xcol l ≠ .on3 ∧ ycol l ≠ .on3 ∧ xcol l ≠ .off3 ∧ ycol l ≠ .off3 := by
  simp [xcol, ycol, Rgb.on3, Rgb.off3]

theorem count_xcol_roundSegments (l : Levels) (k : Nat) :
    (roundSegments l k).count (xcol l, 100) = if k ≤ l.px.toNat + l.nx.toNat then 1 else 0 := by
  obtain ⟨hxy, hx, hy, -, -⟩ := colours_distinct l
  simp only [roundSegments, xact_iff, List.count_append]
  split_ifs <;> simp [Config.tPulse, hxy.symm, hx.symm]

theorem count_ycol_roundSegments (l : Levels) (k : Nat) :
    (roundSegments l k).count (ycol l, 100) = if k ≤ l.py.toNat + l.ny.toNat then 1 else 0 := by
  obtain ⟨hxy, hx, hy, -, -⟩ := colours_distinct l
  simp only [roundSegments, yact_iff, List.count_append]
  split_ifs <;> simp [Config.tPulse, hxy, hy.symm]

/-- Three rounds, each with a pulse while the round is at most `n`. -/
theorem pulses_of_three_rounds (n : Nat) :
    (if 1 ≤ n then 1 else 0) + (if 2 ≤ n then 1 else 0) + (if 3 ≤ n then 1 else 0) = min 3 n := by
  split_ifs <;> omega

/-- Settles O46: each round up to the sum of the axis's levels has one segment of its colour, and an all-zero cycle has
none. -/
theorem pulseCounts : Obligations.PulseCounts := by
  unfold Obligations.PulseCounts
  intro l
  cases hz : allZero l with
  | true =>
    obtain ⟨-, -, -, hx, hy⟩ := colours_distinct l
    obtain ⟨hpx, hnx, hpy, hny⟩ := allZero_iff.mp hz
    simp [cycleSegments_of_allZero hz, hx.symm, hy.symm, hpx, hnx, hpy, hny]
  | false =>
    simp only [cycleSegments_of_not_allZero hz, List.count_append, count_xcol_roundSegments, count_ycol_roundSegments,
      pulses_of_three_rounds, and_self]

/-! ### What a run of ticks drives -/

/-- From `s`, ticks drive the list `segs` in a state where `P` holds throughout, and its last tick leads to `t`. -/
structure Drives (P : State → Prop) (segs : List (Rgb × Nat)) (s t : State) : Prop where
  during : ∀ n, n < segmentTicks segs → (ticks n s).led = segmentLed segs n ∧ P (ticks n s)
  after : ticks (segmentTicks segs) s = t

theorem Drives.nil (P : State → Prop) (s : State) : Drives P [] s s :=
  ⟨fun _ hn => absurd hn (Nat.not_lt_zero _), rfl⟩

theorem Drives.append {P : State → Prop} {a b : List (Rgb × Nat)} {s t u : State} (h1 : Drives P a s t)
    (h2 : Drives P b t u) : Drives P (a ++ b) s u where
  during n hn := by
    rw [segmentTicks_append] at hn
    rw [segmentLed_append]
    split
    · next hlt => exact h1.during n hlt
    · next hge =>
      have hsum : n = segmentTicks a + (n - segmentTicks a) := by omega
      have hticks : ticks n s = ticks (n - segmentTicks a) t := by rw [hsum, ticks_add, h1.after, Nat.add_sub_cancel_left]
      rw [hticks]
      exact h2.during _ (by omega)
  after := by rw [segmentTicks_append, ticks_add, h1.after, h2.after]

/-- A stage drives its value for the ticks it was entered with, and then ends (R176). -/
theorem drives_stage {P : State → Prop} {g : Stage} (hg : g.isTimed = true) {d : Nat} (h1 : 1 ≤ d) (h2 : d ≤ 65535)
    (k : Nat) (c : Rgb) (s : State) (hP : ∀ m, P (enterLed g k m c s)) :
    Drives P [(c, d)] (enterLed g k d c s) (endStage (enterLed g k 1 c s)) := by
  have hd : (enterLed g k d c s).tmr.toNat = d := by rw [enterLed_tmr, BitVec.toNat_ofNat]; omega
  constructor
  case during =>
    intro n hn
    have hn : n < d := hn
    have hcount : ticks n (enterLed g k d c s) = enterLed g k (d - n) c s := by
      rw [ticks_count hg (by omega), hd]
      rfl
    rw [hcount]
    exact ⟨(if_pos hn).symm, hP _⟩
  case after =>
    have hlast := ticks_tmr (s := enterLed g k d c s) hg (by omega)
    rw [hd] at hlast
    exact hlast.trans (tick_last hg (Nat.le_refl 1))

/-! ### The acknowledgement (R175) -/

/-- The segments of the acknowledgement: on, off, on, off. -/
def ackSegments : List (Rgb × Nat) := [(.on3, 200), (.off3, 200), (.on3, 200), (.off3, 200)]

theorem drives_ackStart (s : State) :
    Drives (cmdReady · = false) ackSegments (ackStart s) { s with stg := .off, k := 0, tmr := 0, led := .off3 } := by
  have stage {g : Stage} (hg : g.isAck = true) (c : Rgb) :
      Drives (cmdReady · = false) [(c, 200)] (enterLed g 0 200 c s) (endStage (enterLed g 0 1 c s)) :=
    drives_stage (by rw [Stage.isTimed, hg, Bool.true_or]) (by decide) (by decide) 0 c s fun _ => by simp [cmdReady, hg]
  exact (stage (g := .ackOn1) rfl .on3).append ((stage (g := .ackOff1) rfl .off3).append
    ((stage (g := .ackOn2) rfl .on3).append (stage (g := .ackOff2) rfl .off3)))

theorem segmentLed_ackSegments {n : Nat} (hn : n < 800) :
    segmentLed ackSegments n = if n / 200 % 2 = 0 then .on3 else .off3 := by
  simp only [ackSegments, segmentLed]
  split_ifs <;> simp [Rgb.on3, Rgb.off3] <;> omega

/-- Settles O42: the four stages drive their 800 ticks with the port held, and the last of them leads to `OFF`. -/
theorem acknowledgementHoldsThePort : Obligations.AcknowledgementHoldsThePort := by
  unfold Obligations.AcknowledgementHoldsThePort
  intro s
  obtain ⟨during, after⟩ := drives_ackStart s
  refine ⟨rfl, fun n hn => ?_, after, congrArg cmdReady after⟩
  obtain ⟨hled, hheld⟩ := during n hn
  exact ⟨hheld, by rw [hled, segmentLed_ackSegments hn]⟩

/-! ### The rounds of a cycle (R178) -/

/-- The segments of a pulse: the colour, then the neutral value. -/
def pulseSegments (c : Rgb) : List (Rgb × Nat) := [(c, Config.tPulse), (.on3, Config.tNeutral)]

/-- The segment of the idle remainder of round `k`, if there is one. -/
def idleSegments (l : Levels) (k : Nat) : List (Rgb × Nat) :=
  if roundIdle l k > 0 then [(.on3, roundIdle l k)] else []

theorem roundSegments_eq (l : Levels) (k : Nat) :
    roundSegments l k = (if xact l k then pulseSegments (xcol l) else [])
      ++ (if yact l k then pulseSegments (ycol l) else []) ++ idleSegments l k := rfl

/-- `s` is a state inside a cycle that began at `s₀`, with the indicator at `ON3`, as between two of its stages. -/
structure InCycle (s₀ s : State) : Prop where
  same : SameButEngine s₀ s
  snap : s.snap = s₀.lvl
  led : s.led = .on3

theorem InCycle.neutral {s₀ s : State} (h : InCycle s₀ s) (g : Stage) (k t : Nat) :
    InCycle s₀ (enterLed g k t .on3 s) where
  same := by
    have hsame := h.same
    unfold SameButEngine at hsame ⊢
    rw [hsame]
    rfl
  snap := h.snap
  led := rfl

/-- `RI` does not write the indicator, which is at `ON3` already (R183). -/
theorem InCycle.enter_eq {s₀ s : State} (h : InCycle s₀ s) (g : Stage) (k t : Nat) :
    enter g k t s = enterLed g k t .on3 s := by
  rw [enterLed, ← h.led]
  rfl

theorem toNat_ofNat_round {k : Nat} (hk : k ≤ 3) : (BitVec.ofNat 2 k).toNat = k := by
  rw [BitVec.toNat_ofNat]
  omega

/-- Inside a cycle that began at `s₀`, what follows round `k` drives `segs`, and then a new cycle begins. -/
def NextDrives (s₀ : State) (k : Nat) (segs : List (Rgb × Nat)) : Prop :=
  ∀ t, InCycle s₀ t → Drives (·.snap = s₀.lvl) segs (nextRound k t) (beginCycle s₀)

/-- Inside a cycle that began at `s₀`, the search in round `k` from its place `p` drives `segs`, and then a new cycle
begins. -/
def SeekDrives (s₀ : State) (k p : Nat) (segs : List (Rgb × Nat)) : Prop :=
  ∀ t, InCycle s₀ t → Drives (·.snap = s₀.lvl) segs (seek k p t) (beginCycle s₀)

section Rounds
variable {s₀ : State} {k : Nat} {rest : List (Rgb × Nat)}

/-- After both pulses the search drives the idle remainder, if there is one. -/
theorem NextDrives.idle (hk : k ≤ 3) (hrest : NextDrives s₀ k rest) :
    SeekDrives s₀ k 2 (idleSegments s₀.lvl k ++ rest) := by
  intro t h
  have hseek : seek k 2 t
      = if roundIdle s₀.lvl k > 0 then enterLed .ri k (roundIdle s₀.lvl k) .on3 t else nextRound k t := by
    rw [seek_eq, seekRound, if_neg (by simp), if_neg (by simp), h.snap, h.enter_eq]
    split <;> rfl
  rw [hseek, idleSegments]
  split
  · next hidle =>
    have hend : endStage (enterLed .ri k 1 .on3 t) = nextRound k (enterLed .ri k 1 .on3 t) := by
      simp only [endStage, enterLed_stg, enterLed_k, toNat_ofNat_round hk, nextRound]
    have stage := drives_stage (P := (·.snap = s₀.lvl)) (g := .ri) rfl hidle ((roundIdle_le ..).trans (by decide))
      k .on3 t fun _ => h.snap
    rw [hend] at stage
    exact stage.append (hrest _ (h.neutral ..))
  · exact hrest t h

/-- One axis of a round: where it is active (`b`) the search from its place `p` enters its colour stage `g`, which its
neutral stage `g'` follows; after that, or where it is not active, the search goes on from the next place. -/
theorem SeekDrives.pulse {p : Nat} {b : Bool} {c : Rgb} {g g' : Stage} (hk : k ≤ 3)
    (hg : g.isTimed = true) (hg' : g'.isTimed = true)
    (hseek : ∀ t, t.snap = s₀.lvl → seek k p t = if b then enterLed g k Config.tPulse c t else seek k (p + 1) t)
    (hnext : ∀ t, endStage (enterLed g k 1 c t) = enterLed g' k Config.tNeutral .on3 t)
    (hend : ∀ t : State, t.stg = g' → endStage t = seek t.k.toNat (p + 1) t)
    (hrest : SeekDrives s₀ k (p + 1) rest) :
    SeekDrives s₀ k p ((if b then pulseSegments c else []) ++ rest) := by
  intro t h
  rw [hseek t h.snap]
  cases b with
  | false => exact hrest t h
  | true =>
    have colour := drives_stage (P := (·.snap = s₀.lvl)) (d := Config.tPulse) hg (by decide) (by decide) k c t
      fun _ => h.snap
    have neutral := drives_stage (P := (·.snap = s₀.lvl)) (d := Config.tNeutral) hg' (by decide) (by decide) k .on3 t
      fun _ => h.snap
    rw [hnext] at colour
    rw [hend _ rfl, enterLed_k, toNat_ofNat_round hk] at neutral
    exact (colour.append neutral).append (hrest _ (h.neutral ..))

/-- The search from the start of a round drives the whole round. -/
theorem NextDrives.round (hk : k ≤ 3) (hrest : NextDrives s₀ k rest) :
    SeekDrives s₀ k 0 (roundSegments s₀.lvl k ++ rest) := by
  have idle : SeekDrives s₀ k 2 (idleSegments s₀.lvl k ++ rest) := hrest.idle hk
  have y := SeekDrives.pulse (p := 1) (b := yact s₀.lvl k) (c := ycol s₀.lvl) (g := .yp) (g' := .yn) hk rfl rfl
    (fun t ht => by rw [seek_eq, seek_eq, ← ht]; cases hy : yact t.snap k <;> simp [seekRound, hy])
    (fun _ => rfl) (fun t ht => by rw [endStage, ht]) idle
  have x := SeekDrives.pulse (p := 0) (b := xact s₀.lvl k) (c := xcol s₀.lvl) (g := .xp) (g' := .xn) hk rfl rfl
    (fun t ht => by rw [seek_eq, seek_eq, ← ht]; cases hx : xact t.snap k <;> simp [seekRound, hx])
    (fun _ => rfl) (fun t ht => by rw [endStage, ht]) y
  rwa [roundSegments_eq, List.append_assoc, List.append_assoc]

theorem NextDrives.last : NextDrives s₀ 3 [] := fun _ h => h.same.beginCycle_eq ▸ Drives.nil _ _

theorem NextDrives.previous (hk : k < Config.nRounds) (hrest : NextDrives s₀ (k + 1) rest) :
    NextDrives s₀ k (roundSegments s₀.lvl (k + 1) ++ rest) := by
  intro t h
  rw [nextRound, if_pos hk]
  exact hrest.round hk t h

end Rounds

/-- A cycle drives the segment list of its snapshot and then begins again, with no tick between. -/
theorem drives_beginCycle (s : State) :
    Drives (·.snap = s.lvl) (cycleSegments s.lvl) (beginCycle s) (beginCycle s) := by
  cases hz : allZero s.lvl with
  | true =>
    have hold := drives_stage (P := (·.snap = s.lvl)) (g := .zt) rfl tTick_range.1 tTick_range.2 0 .off3 (snapshot s)
      fun _ => rfl
    have hend : endStage (enterLed .zt 0 1 .off3 (snapshot s)) = beginCycle s :=
      SameButEngine.beginCycle_eq rfl
    rw [hend, ← beginCycle_of_allZero hz] at hold
    rwa [cycleSegments_of_allZero hz]
  | false =>
    have rounds : NextDrives s 0 (roundSegments s.lvl 1 ++ (roundSegments s.lvl 2 ++ (roundSegments s.lvl 3 ++ []))) :=
      .previous (by decide) (.previous (by decide) (.previous (by decide) .last))
    have hbegin : beginCycle s = nextRound 0 (snapshot { s with led := .on3 }) := by
      rw [← SameButEngine.beginCycle_eq (s := s) (t := { s with led := .on3 }) rfl]
      exact beginCycle_eq_seek hz
    rw [cycleSegments_of_not_allZero hz]
    have all := rounds (snapshot { s with led := .on3 }) ⟨rfl, rfl, rfl⟩
    rwa [← hbegin, List.append_nil, ← List.append_assoc] at all

/-- Settles O44: what the beginning of a cycle drives. -/
theorem stageMachineRefinesSegmentForm : Obligations.StageMachineRefinesSegmentForm :=
  fun s => ⟨(drives_beginCycle s).during, (drives_beginCycle s).after⟩

end Sys2Proof.Machine

/-! SUPPORT. Faults and the halted state (spec/60_exceptions.md R210 to R217), and what the indicator can show
(spec/60_exceptions.md R223); the statements O23 to O26 and O48. -/

namespace Sys2Proof.Machine

/-! ### No event reaches the agenda (R12) -/

theorem SameButEngine.env_eq {s t : State} (h : SameButEngine s t) : t.env = s.env := by
  unfold SameButEngine at h
  rw [h]

theorem DataEffect.env_eq {i : Instr} {s t : State} (h : DataEffect s i t) : t.env = s.env := by
  cases h <;> rfl

/-- Of all events only `Read` writes the model's own environment, and not its agenda (log entry 4). -/
theorem Effect.env_cases {e : Event} {s t : State} (h : Effect s e t) :
    t.env = s.env ∨ ∃ a, e = .read a ∧ t = readEvent a s := by
  cases h with
  | read a => exact .inr ⟨a, rfl, rfl⟩
  | tick => exact .inl (tick_env s)
  | start w hd hp => exact .inl (beginCycle_sameButEngine { s with phase := .running }).env_eq
  | data w i t hd hl hw => exact .inl hw.env_eq
  | reset | nothing | fault | arm => exact .inl rfl

theorem exec_env {i : Instr} {s t : State} (h : exec i s = .next t) : t.env = s.env := by
  cases hw : i.wellFormed with
  | true => exact (effect_of_exec hw h).env_cases.resolve_right nofun
  | false =>
    by_cases hp : s.phase = .halted
    · rw [exec_halted hp] at h
      cases h
      rfl
    · rw [exec_not_wellFormed hp hw] at h
      cases h
      rfl

theorem runEvent_pending {e : Event} {s t : State} (h : runEvent e s = .next t) : t.env.pending = s.env.pending := by
  rcases (effect_of_runEvent h).env_cases with henv | ⟨a, -, rfl⟩
  · rw [henv]
  · rfl

/-- Settles O23: a command is its own rule under the shared checks, and a step is one event or a wait. -/
theorem nothingStopsTheBlock : Obligations.NothingStopsTheBlock := by
  unfold Obligations.NothingStopsTheBlock
  refine ⟨fun i s => ⟨_, exec_eq i s, exec_env (exec_eq i s)⟩, fun e s => ?event, fun s => ?step⟩
  case event =>
    obtain ⟨t, ht⟩ := runEvent_next e s
    exact ⟨t, ht, runEvent_pending ht⟩
  case step =>
    cases htake : takeEvent (cmdReady s) s.env.pending with
    | none => exact ⟨s, step_of_takeEvent_none htake⟩
    | some p =>
      rw [step_of_takeEvent_some htake]
      exact runEvent_next p.1 (withPending p.2 s)

/-! ### Fault entry (R214) -/

/-- No data write halts the block: each is of a command that is legal in its phase. -/
theorem DataEffect.not_halted {i : Instr} {s t : State} (h : DataEffect s i t) (hl : legal i s.phase = true) :
    t.phase ≠ .halted := by
  rcases h.phase_cases with hsame | ⟨-, -, hcal⟩
  · rw [hsame]
    exact not_halted_of_legal hl
  · simp [hcal]

/-- A command halts the block by fault entry only. -/
theorem Effect.eq_raise {w : Word} {s t : State} (h : Effect s (.cmd w) t) (hs : s.phase ≠ .halted)
    (ht : t.phase = .halted) : ∃ c, c ≠ .none ∧ t = raise c w s := by
  cases h with
  | fault _ c hp hc cause => exact ⟨c, hc, rfl⟩
  | nothing => exact absurd ht hs
  | arm => cases ht
  | start =>
    rw [(beginCycle_sameButEngine { s with phase := .running }).phase_eq] at ht
    cases ht
  | data _ i _ hd hl hw => exact absurd ht (hw.not_halted hl)

/-- Settles O24: a command that halts the block is a fault entry with the command's own word, of the state before it. -/
theorem faultEntryRecordsAndHalts : Obligations.FaultEntryRecordsAndHalts := by
  unfold Obligations.FaultEntryRecordsAndHalts
  refine ⟨fun c w s => rfl, fun w s t hs h ht => ?entry, fun w s t hs h => ?discarded⟩
  case entry =>
    obtain ⟨c, hc, rfl⟩ := (effect_of_cmdEvent h).eq_raise hs ht
    exact ⟨hc, bne_iff_ne.mpr hc, rfl⟩
  case discarded =>
    rw [cmdEvent_halted hs w] at h
    cases h
    rfl

/-! ### No command reads the engine's registers into any other (R215) -/

theorem SameButEngine.fcmd_eq {s t : State} (h : SameButEngine s t) : t.fcmd = s.fcmd := by
  unfold SameButEngine at h
  rw [h]

section Engine
variable {s u : State} (h : SameButEngine s u)
include h

theorem SameButEngine.raise_congr (c : FaultCode) (w : Word) : SameButEngine (raise c w s) (raise c w u) := by
  unfold SameButEngine at h
  rw [h]
  rfl

theorem SameButEngine.withPhase_congr (p : Phase) : SameButEngine { s with phase := p } { u with phase := p } := by
  unfold SameButEngine at h
  rw [h]
  rfl

theorem SameButEngine.initRule_congr (id : Byte) : SameButEngine (initRule id s) (initRule id u) := by
  unfold initRule
  split
  · exact h.withPhase_congr .ready
  · exact h.raise_congr ..

theorem SameButEngine.ldbRule_congr (a : Axis) (hi lo : Byte) : SameButEngine (ldbRule a hi lo s) (ldbRule a hi lo u) := by
  unfold SameButEngine at h
  rw [h]
  rfl

theorem SameButEngine.advRule_congr : SameButEngine (advRule s) (advRule u) := by
  unfold SameButEngine at h
  rw [h]
  rfl

theorem SameButEngine.calRule_congr : SameButEngine (calRule s) (calRule u) := by
  unfold SameButEngine at h
  rw [h]
  unfold calRule
  dsimp only
  split
  · split <;> rfl
  · rfl

theorem SameButEngine.pushRule_congr (f : FAxis) : SameButEngine (pushRule f s) (pushRule f u) := by
  unfold SameButEngine at h
  rw [h]
  unfold pushRule
  dsimp only
  split
  · rfl
  · unfold refilter
    dsimp only
    split <;> rfl

theorem SameButEngine.clsRule_congr (f : FAxis) : SameButEngine (clsRule f s) (clsRule f u) := by
  unfold SameButEngine at h
  rw [h]
  unfold clsRule
  dsimp only
  split <;> rfl

theorem SameButEngine.onFiltered_congr {rule : FAxis → State → State}
    (hrule : ∀ f, SameButEngine (rule f s) (rule f u)) (i : Instr) (a : Axis) :
    SameButEngine (onFiltered i a rule s) (onFiltered i a rule u) := by
  unfold onFiltered
  split
  · exact hrule _
  · exact h.raise_congr ..

theorem SameButEngine.ruleOf_congr (i : Instr) : SameButEngine (ruleOf i s) (ruleOf i u) := by
  cases i with
  | nop => exact h
  | init id => exact h.initRule_congr id
  | ldb a hi lo => exact h.ldbRule_congr a hi lo
  | cal => exact h.calRule_congr
  | push a => exact h.onFiltered_congr h.pushRule_congr (.push a) a
  | adv => exact h.advRule_congr
  | cls a => exact h.onFiltered_congr h.clsRule_congr (.cls a) a
  | start =>
    have hbegin : ruleOf .start u = ruleOf .start s := (h.withPhase_congr .running).beginCycle_eq
    rw [hbegin]
    rfl

theorem SameButEngine.issue_congr (i : Instr) : SameButEngine (issue i (ruleOf i) s) (issue i (ruleOf i) u) := by
  unfold issue
  rw [h.phase_eq]
  split
  · exact h
  · split
    · exact h.raise_congr ..
    · split
      · exact h.raise_congr ..
      · exact h.ruleOf_congr i

theorem SameButEngine.illegal_congr (w : Word) : SameButEngine (illegal w s) (illegal w u) := by
  unfold illegal
  rw [h.phase_eq]
  split
  · exact h
  · exact h.raise_congr ..

/-- From states that differ in the engine's registers only, a command word leads to such states again: what it does to
every other register, raising a fault included, does not depend on the engine. -/
theorem SameButEngine.cmdEvent_congr {w : Word} {t : State} (ht : cmdEvent w s = .next t) :
    ∃ v, cmdEvent w u = .next v ∧ SameButEngine t v := by
  cases hd : decode w with
  | ok i =>
    rw [cmdEvent_of_decode_ok hd, exec_eq] at ht
    cases ht
    exact ⟨_, by rw [cmdEvent_of_decode_ok hd, exec_eq], h.issue_congr i⟩
  | error r =>
    rw [cmdEvent_of_decode_error hd] at ht
    cases ht
    exact ⟨_, cmdEvent_of_decode_error hd u, h.illegal_congr w⟩

end Engine

/-- Settles O25: after the fault the engine is halted and a tick does nothing; after the tick the word meets a state that
differs in the engine's registers only, so it raises the same fault. -/
theorem faultAndTickInEitherOrder : Obligations.FaultAndTickInEitherOrder := by
  unfold Obligations.FaultAndTickInEitherOrder
  intro w s t hs h ht
  refine ⟨?tickAfter, ?tickBefore⟩
  case tickAfter =>
    obtain ⟨c, -, rfl⟩ := (effect_of_cmdEvent h).eq_raise hs ht
    rw [tick_idle (.inr rfl)]
    exact ⟨rfl, rfl, rfl⟩
  case tickBefore =>
    have hticked := tick_sameButEngine s
    obtain ⟨u, hu, hsame⟩ := hticked.cmdEvent_congr h
    have hup : u.phase = .halted := hsame.phase_eq.trans ht
    obtain ⟨c, -, hraise⟩ := (effect_of_cmdEvent hu).eq_raise (hticked.phase_eq ▸ hs) hup
    exact ⟨u, hu, by rw [hraise, raise_stg], by rw [hraise, raise_led], hup, hsame.fault_eq, hsame.fcmd_eq⟩

/-! ### The halted state (R216, R217) -/

/-- Only `Reset` leaves `PH_HALTED`. -/
theorem Effect.eq_reset {e : Event} {s t : State} (h : Effect s e t) (hs : s.phase = .halted)
    (ht : t.phase ≠ .halted) : e = .reset := by
  cases h with
  | reset => rfl
  | tick => exact absurd ((tick_sameButEngine s).phase_eq.trans hs) ht
  | read | nothing => exact absurd hs ht
  | fault => exact absurd rfl ht
  | arm _ _ hp | start _ _ hp => simp [hp] at hs
  | data _ _ _ _ hl => exact absurd hs (not_halted_of_legal hl)

/-- Settles O26: in the halted state a command is discarded and a tick idles; a read changes the environment only. -/
theorem onlyResetLeavesTheHaltedState : Obligations.OnlyResetLeavesTheHaltedState := by
  unfold Obligations.OnlyResetLeavesTheHaltedState
  refine ⟨fun s hp hg => ⟨?ready, cmdEvent_halted hp, ?tick, fun a => ⟨_, rfl, rfl, readEvent_block a s⟩⟩,
    fun e s t hs h ht => (effect_of_runEvent h).eq_reset hs ht, fun s t h => ?reset⟩
  case ready => simp [cmdReady, hg, Stage.isAck]
  case tick => rw [runEvent, tick_idle (.inr hg)]
  case reset =>
    cases h
    exact ⟨rfl, rfl, rfl⟩

/-! ### What the indicator shows (R183, R223) -/

/-- The six values the indicator can show (R223). -/
def shownValues : List Rgb :=
  [⟨false, false, false⟩, ⟨true, true, true⟩, ⟨false, false, true⟩, ⟨false, true, true⟩, ⟨true, false, false⟩,
    ⟨true, true, false⟩]

theorem xcol_mem_shownValues (l : Levels) : xcol l ∈ shownValues := by
  unfold xcol
  cases l.nx != 0 <;> decide

theorem ycol_mem_shownValues (l : Levels) : ycol l ∈ shownValues := by
  unfold ycol
  cases l.ny != 0 <;> decide

theorem stageLed_mem_shownValues (g : Stage) (l : Levels) : stageLed g l ∈ shownValues := by
  cases g with
  | xp => exact xcol_mem_shownValues l
  | yp => exact ycol_mem_shownValues l
  | off | ackOff1 | ackOff2 | zt | halt => exact (by decide : Rgb.off3 ∈ shownValues)
  | ackOn1 | ackOn2 | xn | yn | ri => exact (by decide : Rgb.on3 ∈ shownValues)

theorem beginCycle_stg_ne_ri (s : State) : (beginCycle s).stg ≠ .ri := by
  rcases beginCycle_cases s with ⟨-, h⟩ | ⟨-, -, h⟩ | ⟨-, -, -, h⟩ <;> simp [h]

/-- `RI` is entered from the neutral phase of a pulse or from the `RI` of the round before (R173, R176). -/
theorem stg_of_endStage_ri {s : State} (h : (endStage s).stg = .ri) : s.stg = .xn ∨ s.stg = .yn ∨ s.stg = .ri := by
  unfold endStage at h
  cases hg : s.stg with
  | xn | yn | ri => simp
  | zt => rw [hg] at h; exact absurd h (beginCycle_stg_ne_ri s)
  | off | halt | ackOn1 | ackOff1 | ackOn2 | ackOff2 | xp | yp => simp [hg] at h

theorem stg_of_tick_ri {s : State} (h : (tick s).stg = .ri) : s.stg = .xn ∨ s.stg = .yn ∨ s.stg = .ri := by
  rcases tick_cases s with ⟨-, htick⟩ | ⟨-, -, -, htick⟩ | ⟨-, -, -, htick⟩ <;> rw [htick] at h
  · exact .inr (.inr h)
  · exact .inr (.inr h)
  · exact stg_of_endStage_ri h

/-- The invariant has the indicator at `ON3` in the neutral phases and in `RI`. -/
theorem Inv.led_on3 {s : State} (h : Inv s) (hg : s.stg = .xn ∨ s.stg = .yn ∨ s.stg = .ri) : s.led = .on3 := by
  rw [h.ledOfStage]
  rcases hg with hg | hg | hg <;> rw [hg] <;> rfl

/-- Settles O48: the invariant fixes the indicator by the stage, and a tick keeps the invariant. -/
theorem indicatorShowsSixValues : Obligations.IndicatorShowsSixValues := by
  unfold Obligations.IndicatorShowsSixValues
  intro s h
  have hmem : s.led ∈ shownValues := h.ledOfStage ▸ stageLed_mem_shownValues ..
  exact ⟨hmem, ne_of_mem_of_not_mem hmem (by decide), ne_of_mem_of_not_mem hmem (by decide),
    fun hri => ⟨h.led_on3 (stg_of_tick_ri hri), (inv_tick h).led_on3 (.inr (.inr hri))⟩⟩

end Sys2Proof.Machine

/-! SUPPORT. Reset (spec/10_state.md R44, R240, R241) and the first cycle after `START` (spec/44_pulse_engine.md R174,
R250); the statements O22 and O49. -/

namespace Sys2Proof.Machine

/-! ### Reset (R44, R240, R241) -/

/-- In the state of the table, `Reset` finds nothing to change. -/
theorem resetEvent_reset : resetEvent State.reset = State.reset := rfl

theorem runEvent_reset (s : State) : runEvent .reset s = .next (resetEvent s) := rfl

/-- Settles O49: `resetEvent` writes the whole table whatever the state before, and the port and the `fault` pin are read
off the table's `STG = OFF` and `FAULT = 0`. -/
theorem resetLeavesTheResetTable : Obligations.ResetLeavesTheResetTable := by
  unfold Obligations.ResetLeavesTheResetTable
  refine ⟨runEvent_reset, ?again, ?ready, ?pin⟩
  case again => rw [runEvent_reset, resetEvent_reset]
  case ready => exact (by decide : (!Stage.off.isAck) = true)
  case pin => exact (by decide : (FaultCode.none != .none) = false)

/-! ### The first cycle (R174, R250) -/

/-- `T_TICK` fits the timer. -/
theorem toNat_tTick : (BitVec.ofNat 16 Config.tTick).toNat = Config.tTick := by
  rw [BitVec.toNat_ofNat]
  exact Nat.mod_eq_of_lt (Nat.lt_succ_of_le tTick_range.2)

/-- A stage and what it shows last as long as the timer. -/
theorem ticks_holds_stage {s : State} (hg : s.stg.isTimed = true) {n : Nat} (hn : n < s.tmr.toNat) :
    (ticks n s).stg = s.stg ∧ (ticks n s).led = s.led := by
  rw [ticks_count hg hn]
  exact ⟨rfl, rfl⟩

/-- Settles O22: `START` enters `ZT` with `T_TICK` ticks to go, and fewer ticks than that leave it there. -/
theorem firstCycleIsOff : Obligations.FirstCycleIsOff := by
  unfold Obligations.FirstCycleIsOff
  intro s t hinv hp ht
  refine ⟨tTick_range.1, fun n hn => ?_⟩
  obtain ⟨-, -, hstart, -, -⟩ := startTakesTheFirstSnapshot s
  rw [hstart hinv hp] at ht
  cases ht
  exact ticks_holds_stage rfl (toNat_tTick.symm ▸ hn)

end Sys2Proof.Machine
